-- ==== Sys2Proof/Word.lean ====
section
/-! DEFINITION. The words of the block: the widths of R11, the Display Mode variant (R23), a physical address (R11, R54)
and a whole Display Mode as one value (the source's data model, R23 to R26). Layout functions stand in Machine/Ops.lean. -/

namespace Sys2Proof

/-- A Column: 8 bits, bit `i` is row `i` (R11, R22). -/
abbrev Column := BitVec 8

/-- A 64-bit Display State; a frame and a glyph pattern have the same shape (R11, R21). -/
abbrev DisplayState := BitVec 64

/-- A character code of `CHAR_W` = 8 bits, the address of the Glyph ROM (R6, R82). -/
abbrev CharCode := BitVec 8

/-- One entry of `SEQ` or `STG`: 64 bits in both Display Modes (R24, R27). -/
abbrev Entry := BitVec 64

/-- The 68-bit command word `CW` (R80, R81). -/
abbrev CommandWord := BitVec 68

/-- The 72-bit response word `RW` (R80, R83). -/
abbrev ResponseWord := BitVec 72

/-- The two Display Modes, the values of the 1-bit register `TAG`. "No third value exists" (R23). -/
inductive ModeTag where
  | scroll
  | animate
  deriving DecidableEq, Repr

/-- A physical address of the display controller: column slot `x` (4 bits) and row `y` (3 bits) (R11, R50, R135). -/
structure PhysAddr where
  x : BitVec 4
  y : BitVec 3
  deriving DecidableEq, Repr

/-- A logical cell (row, column) of the 8 by 8 grid (R7, R11). -/
abbrev Cell := Fin 8 × Fin 8

/-- A Display Mode as one value: the variant, its sequence and its cursor (the source's data model; R23, R24, R25). -/
structure DisplayMode where
  tag     : ModeTag
  entries : List Entry
  cursor  : BitVec 16
  deriving DecidableEq, Repr

end Sys2Proof
end

