-- ==== Sys2Proof/Syntax.lean ====
section
/-! DEFINITION. The fourteen commands of the block, one constructor per row of R85 and of spec/opcode_table.json. -/

namespace Sys2Proof

/-- A command with its operands (R82, R85). Character codes, columns and frames are bits of their own width. The logical
indices `row` and `col` are natural numbers (R11); that they fit their 8-bit fields is checked in WellFormed.lean. -/
inductive Instr where
  /-- `GLYPH ch`: Glyph ROM lookup (R115). -/
  | glyph (ch : CharCode)
  /-- `COLS ch`: the trimmed columns of one character (R124). -/
  | cols (ch : CharCode)
  /-- `MAP row, col`: coordinate lookup (R140). -/
  | map (row col : Nat)
  /-- `SCROLLIN col8`: shift one column into `FB` (R153). -/
  | scrollin (col8 : Column)
  /-- `REPLACE frame`: replace `FB` (R154). -/
  | replace (frame : DisplayState)
  /-- `TICK`: the per-tick transition (R155). -/
  | tick
  /-- `PIXEL row, col`: one render entry (R194). -/
  | pixel (row col : Nat)
  /-- `RDFB`: read the framebuffer (R164). -/
  | rdfb
  /-- `RDSTAT`: read the sequencer and staging status (R165). -/
  | rdstat
  /-- `STGCLR`: empty the staging buffer (R159). -/
  | stgclr
  /-- `STGCOL col8`: append one column to the staging buffer (R160). -/
  | stgcol (col8 : Column)
  /-- `STGFRM frame`: append one frame to the staging buffer (R161). -/
  | stgfrm (frame : DisplayState)
  /-- `STGCHAR ch`: append one character's columns to the staging buffer (R125). -/
  | stgchar (ch : CharCode)
  /-- `COMMIT tag`: install the staging buffer as the Display Mode (R162). -/
  | commit (tag : ModeTag)
  deriving DecidableEq, Repr

end Sys2Proof
end

