-- ==== Sys2Proof/Machine/Tables.lean ====
section
/-! DEFINITION. The constant tables and parameter values of this hardware, as data: R6, R113, R116, R137, R33. -/

namespace Sys2Proof.Machine

/-- The reference ROM (R116 item 3) with the three known glyphs, bit for bit as R113 transcribes them:
space (0x20), `A` (0x41) and `B` (0x42). The codes are R63's, which marks them as general knowledge (log entry 5).
That no other character is supported is the reference ROM and not the source (log entry 8). -/
def referenceFont : List (CharCode × DisplayState) :=
  [(0x20#8, 0x0000000000000000#64),
   (0x41#8, 0x3E7EC8C87E3E0000#64),
   (0x42#8, 0x6C9292FEFE820000#64)]

/-- `GLYPH_MISSING`: "a bordered box pattern"; the value is the spec's own reading (R116 item 2; log entry 6). -/
def glyphMissingPattern : DisplayState := 0xFF818181818181FF#64

/-- `COORD_MAP[row][col]` as R137 prints it: all 64 entries, as data and not as a formula
("must reproduce this exact table rather than deriving it algebraically"). `x` of columns 1 to 7 is a reading (log entry 11). -/
def coordTable : Vector (Vector PhysAddr 8) 8 :=
  #v[#v[⟨0, 6⟩, ⟨2, 6⟩, ⟨4, 6⟩, ⟨6, 6⟩, ⟨8, 6⟩, ⟨10, 6⟩, ⟨12, 6⟩, ⟨14, 6⟩],
     #v[⟨0, 5⟩, ⟨2, 5⟩, ⟨4, 5⟩, ⟨6, 5⟩, ⟨8, 5⟩, ⟨10, 5⟩, ⟨12, 5⟩, ⟨14, 5⟩],
     #v[⟨0, 4⟩, ⟨2, 4⟩, ⟨4, 4⟩, ⟨6, 4⟩, ⟨8, 4⟩, ⟨10, 4⟩, ⟨12, 4⟩, ⟨14, 4⟩],
     #v[⟨0, 3⟩, ⟨2, 3⟩, ⟨4, 3⟩, ⟨6, 3⟩, ⟨8, 3⟩, ⟨10, 3⟩, ⟨12, 3⟩, ⟨14, 3⟩],
     #v[⟨0, 2⟩, ⟨2, 2⟩, ⟨4, 2⟩, ⟨6, 2⟩, ⟨8, 2⟩, ⟨10, 2⟩, ⟨12, 2⟩, ⟨14, 2⟩],
     #v[⟨0, 1⟩, ⟨2, 1⟩, ⟨4, 1⟩, ⟨6, 1⟩, ⟨8, 1⟩, ⟨10, 1⟩, ⟨12, 1⟩, ⟨14, 1⟩],
     #v[⟨0, 0⟩, ⟨2, 0⟩, ⟨4, 0⟩, ⟨6, 0⟩, ⟨8, 0⟩, ⟨10, 0⟩, ⟨12, 0⟩, ⟨14, 0⟩],
     #v[⟨0, 7⟩, ⟨2, 7⟩, ⟨4, 7⟩, ⟨6, 7⟩, ⟨8, 7⟩, ⟨10, 7⟩, ⟨12, 7⟩, ⟨14, 7⟩]]

/-- `COORD_MAP[row][col]` of a coordinate table: the entry of one logical cell (R135). -/
def coordAt (m : Vector (Vector PhysAddr 8) 8) (cell : Cell) : PhysAddr := (m[cell.1])[cell.2]

/-- `SEQ_MAX` of this hardware (R6; log entry 12). -/
def seqMaxValue : Nat := 256

/-- `DEFAULT_MODE`: `Scroll` with the one column `0x00`, cursor 0 (R6, R33; log entry 13). -/
def defaultModeValue : DisplayMode := { tag := .scroll, entries := [0x0000000000000000#64], cursor := 0#16 }

end Sys2Proof.Machine
end

