-- ==== Sys2Proof/Config.lean ====
section
/-! DEFINITION. The configuration of the block: "A model takes each as a field of its configuration" (R6), and the value of
each field for this hardware. The constant tables are configuration and not state (R31, R251). The grid size, `CHAR_W` and
`COL_ORDER` are fixed and no fields (R6, R7, R21); `RENDER_ORDER` is open and is an argument where a list of cells is
needed (R193; Machine/Renderer.lean). -/

namespace Sys2Proof

/-- The parameters of R6. `font` is `SUPPORTED` with `GLYPH_DATA`: the codes it lists are the supported ones. -/
structure Config where
  font         : List (CharCode × DisplayState)
  glyphMissing : DisplayState
  coordMap     : Vector (Vector PhysAddr 8) 8
  seqMax       : Nat
  defaultMode  : DisplayMode
  deriving DecidableEq, Repr

/-- The configuration of this hardware (R6, column "value for this hardware"; the font is the reference ROM of R116). -/
abbrev Config.thisHardware : Config :=
  { font         := Machine.referenceFont
    glyphMissing := Machine.glyphMissingPattern
    coordMap     := Machine.coordTable
    seqMax       := Machine.seqMaxValue
    defaultMode  := Machine.defaultModeValue }

end Sys2Proof
end

