-- ==== Sys2Proof/WellFormed.lean ====
section
/-! DEFINITION. What is well formed: a command's operands (R82), a configuration (R6, R116, R138 and the column
"constraint" of the table of open parameters), an order of the 64 cells (R193). -/

namespace Sys2Proof

/-- An index operand fits its 8-bit field (R82). Values 8 to 255 are well formed: they decode and then fault (R88). -/
def indexFits (n : Nat) : Bool := n < 256

/-- The operands of a command can be carried by its command word (R82). Every character code, column, frame and tag
fits by its type; the two index operands of `MAP` and `PIXEL` are checked. -/
def Instr.wellFormed : Instr → Bool
  | .glyph _     => true
  | .cols _      => true
  | .map r c     => indexFits r && indexFits c
  | .scrollin _  => true
  | .replace _   => true
  | .tick        => true
  | .pixel r c   => indexFits r && indexFits c
  | .rdfb        => true
  | .rdstat      => true
  | .stgclr      => true
  | .stgcol _    => true
  | .stgfrm _    => true
  | .stgchar _   => true
  | .commit _    => true

/-- All 64 cells of the logical grid. The order binds nobody (R193). -/
def allCells : List Cell := (List.finRange 8).flatMap fun col => (List.finRange 8).map fun row => (row, col)

/-- A value for the open parameter `RENDER_ORDER`: a permutation of the 64 cells (R193). -/
def renderOrderWf (order : List Cell) : Bool := order.isPerm allCells

/-- The constraint on `SUPPORTED` and `GLYPH_DATA`: the three known entries (R112, R113, R116 item 1). -/
def fontWf (font : List (CharCode × DisplayState)) : Bool :=
  font.lookup 0x20#8 == some 0x0000000000000000#64
    && font.lookup 0x41#8 == some 0x3E7EC8C87E3E0000#64
    && font.lookup 0x42#8 == some 0x6C9292FEFE820000#64

/-- The constraint on `COORD_MAP`: injective on the 8 by 8 domain (R138); it is total by its type. -/
def coordMapWf (m : Vector (Vector PhysAddr 8) 8) : Bool := decide (allCells.map (Machine.coordAt m)).Nodup

/-- The constraint on `SEQ_MAX`: 9 to 65535 (R6). -/
def seqMaxWf (n : Nat) : Bool := decide (9 ≤ n) && decide (n ≤ 65535)

/-- A legal Display Mode for capacity `n`: length 1 to `n`, the cursor in range (R6, R26; log entry 21). -/
def defaultModeWf (n : Nat) (m : DisplayMode) : Bool :=
  decide (1 ≤ m.entries.length) && decide (m.entries.length ≤ n) && decide (m.cursor.toNat < m.entries.length)

/-- An admissible configuration; any other is refused (R6, R116, R138). `GLYPH_MISSING` may be any pattern. -/
def Config.admissible (c : Config) : Bool :=
  fontWf c.font && coordMapWf c.coordMap && seqMaxWf c.seqMax && defaultModeWf c.seqMax c.defaultMode

end Sys2Proof
end

