-- ==== Sys2Proof/Decode.lean ====
section
/-! DEFINITION. The command word: its fields (R81, R82), the decoder, total on all 2^68 words and rejecting by name
(R86, R87, R94), and after it the encoder, written from the same tables. The opcode map of R85 also stands here as data
(`opcodeMap`), apart from the decoder, so that the two can be held against each other. -/

namespace Sys2Proof

/-- `op`, bits 67:64 of the command word (R81). -/
def opField (w : CommandWord) : BitVec 4 := w.extractLsb' 64 4

/-- `arg`, bits 63:0 of the command word (R81). -/
def argField (w : CommandWord) : BitVec 64 := w.extractLsb' 0 64

/-- The low byte `arg[7:0]`: the field `ch`, `col8` or `col`, as the command has it (R82). -/
def lowByte (arg : BitVec 64) : BitVec 8 := arg.extractLsb' 0 8

/-- The field `row`, `arg[15:8]` (R82). -/
def rowField (arg : BitVec 64) : BitVec 8 := arg.extractLsb' 8 8

/-- The values of the 1-bit field `tag`: 0 `Scroll`, 1 `Animate` (R82, R23). -/
def tagOfBit (b : Bool) : ModeTag := if b then .animate else .scroll

/-- Why a command word is illegal. Both reasons are the one cause `ILLEGAL_CMD` (R223). -/
inductive Illegal where
  /-- `op` is 0x0 or 0xF (R86). -/
  | opcode
  /-- `op` is legal and an operand bit outside the command's fields is 1 (R87). -/
  | reservedBit
  deriving DecidableEq, Repr

/-- Accept a command when its reserved operand bits, `arg` from bit `n` up, are all 0 (R87). -/
def whenReservedZero (n : Nat) (arg : BitVec 64) (i : Instr) : Except Illegal Instr :=
  if arg >>> n = 0 then .ok i else .error .reservedBit

/-- The decoder of R94. -/
def decode (w : CommandWord) : Except Illegal Instr :=
  let arg := argField w
  match (opField w).toNat with
  | 0x1 => whenReservedZero 8 arg (.glyph (lowByte arg))
  | 0x2 => whenReservedZero 8 arg (.cols (lowByte arg))
  | 0x3 => whenReservedZero 16 arg (.map (rowField arg).toNat (lowByte arg).toNat)
  | 0x4 => whenReservedZero 8 arg (.scrollin (lowByte arg))
  | 0x5 => .ok (.replace arg)
  | 0x6 => whenReservedZero 0 arg .tick
  | 0x7 => whenReservedZero 16 arg (.pixel (rowField arg).toNat (lowByte arg).toNat)
  | 0x8 => whenReservedZero 0 arg .rdfb
  | 0x9 => whenReservedZero 0 arg .rdstat
  | 0xA => whenReservedZero 0 arg .stgclr
  | 0xB => whenReservedZero 8 arg (.stgcol (lowByte arg))
  | 0xC => .ok (.stgfrm arg)
  | 0xD => whenReservedZero 8 arg (.stgchar (lowByte arg))
  | 0xE => whenReservedZero 1 arg (.commit (tagOfBit (arg.getLsbD 0)))
  | _   => .error .opcode

/-- A command word from its two fields: `op ++ arg` (R81, R91). -/
def commandWord (op : BitVec 4) (arg : BitVec 64) : CommandWord := op ++ arg

/-- A field of 8 bits, right-aligned in `arg`, every other bit 0 (R82). -/
def argOfByte (b : BitVec 8) : BitVec 64 := b.setWidth 64

/-- The two index fields `row` and `col` in `arg` (R82). -/
def argOfIndices (row col : Nat) : BitVec 64 := (BitVec.ofNat 8 row ++ BitVec.ofNat 8 col).setWidth 64

/-- The bit of `tag` (R82, R23). -/
def tagBit : ModeTag → BitVec 1
  | .scroll  => 0
  | .animate => 1

/-- The encoder: the one word of a well-formed command (R81, R82, R85). -/
def encode : Instr → CommandWord
  | .glyph ch       => commandWord 0x1 (argOfByte ch)
  | .cols ch        => commandWord 0x2 (argOfByte ch)
  | .map row col    => commandWord 0x3 (argOfIndices row col)
  | .scrollin col8  => commandWord 0x4 (argOfByte col8)
  | .replace frame  => commandWord 0x5 frame
  | .tick           => commandWord 0x6 0
  | .pixel row col  => commandWord 0x7 (argOfIndices row col)
  | .rdfb           => commandWord 0x8 0
  | .rdstat         => commandWord 0x9 0
  | .stgclr         => commandWord 0xA 0
  | .stgcol col8    => commandWord 0xB (argOfByte col8)
  | .stgfrm frame   => commandWord 0xC frame
  | .stgchar ch     => commandWord 0xD (argOfByte ch)
  | .commit tag     => commandWord 0xE ((tagBit tag).setWidth 64)

/-- One row of the opcode map: `CW` is the row's command exactly when `CW & mask = match` (R85). -/
structure OpcodeRow where
  mnemonic : String
  pattern  : CommandWord
  mask     : CommandWord
  deriving DecidableEq, Repr

/-- The opcode map of R85, with its `match` and `mask` values. -/
def opcodeMap : List OpcodeRow :=
  [⟨"GLYPH",    0x10000000000000000#68, 0xFFFFFFFFFFFFFFF00#68⟩,
   ⟨"COLS",     0x20000000000000000#68, 0xFFFFFFFFFFFFFFF00#68⟩,
   ⟨"MAP",      0x30000000000000000#68, 0xFFFFFFFFFFFFF0000#68⟩,
   ⟨"SCROLLIN", 0x40000000000000000#68, 0xFFFFFFFFFFFFFFF00#68⟩,
   ⟨"REPLACE",  0x50000000000000000#68, 0xF0000000000000000#68⟩,
   ⟨"TICK",     0x60000000000000000#68, 0xFFFFFFFFFFFFFFFFF#68⟩,
   ⟨"PIXEL",    0x70000000000000000#68, 0xFFFFFFFFFFFFF0000#68⟩,
   ⟨"RDFB",     0x80000000000000000#68, 0xFFFFFFFFFFFFFFFFF#68⟩,
   ⟨"RDSTAT",   0x90000000000000000#68, 0xFFFFFFFFFFFFFFFFF#68⟩,
   ⟨"STGCLR",   0xA0000000000000000#68, 0xFFFFFFFFFFFFFFFFF#68⟩,
   ⟨"STGCOL",   0xB0000000000000000#68, 0xFFFFFFFFFFFFFFF00#68⟩,
   ⟨"STGFRM",   0xC0000000000000000#68, 0xF0000000000000000#68⟩,
   ⟨"STGCHAR",  0xD0000000000000000#68, 0xFFFFFFFFFFFFFFF00#68⟩,
   ⟨"COMMIT",   0xE0000000000000000#68, 0xFFFFFFFFFFFFFFFFE#68⟩]

/-- A row of the opcode map claims a word (R85). -/
def OpcodeRow.claims (r : OpcodeRow) (w : CommandWord) : Bool := w &&& r.mask == r.pattern

/-- The mnemonic of a command (R85). -/
def Instr.mnemonic : Instr → String
  | .glyph _     => "GLYPH"
  | .cols _      => "COLS"
  | .map _ _     => "MAP"
  | .scrollin _  => "SCROLLIN"
  | .replace _   => "REPLACE"
  | .tick        => "TICK"
  | .pixel _ _   => "PIXEL"
  | .rdfb        => "RDFB"
  | .rdstat      => "RDSTAT"
  | .stgclr      => "STGCLR"
  | .stgcol _    => "STGCOL"
  | .stgfrm _    => "STGFRM"
  | .stgchar _   => "STGCHAR"
  | .commit _    => "COMMIT"

/-- The bits of a table word that lie on the command port: `nbits` of them are given, the rest are 0 (log entry 3). -/
def tableBits (nbits w : Nat) : Nat := w % 2 ^ nbits

/-- The instruction the decoder reads from a table word. A word with a 1 above bit 67 is no command word of this
hardware, so it decodes to nothing (R81; log entry 3). -/
def decodeTableWord (nbits w : Nat) : Option Instr :=
  let v := tableBits nbits w
  if v < 2 ^ 68 then
    match decode (BitVec.ofNat 68 v) with
    | .ok i    => some i
    | .error _ => none
  else none

end Sys2Proof
end

