-- ==== Sys2Proof/Machine/State.lean ====
section
/-! DEFINITION. The state of the block (R20 to R34), its command and response ports (R80, R83), its outcomes, and reset. -/

namespace Sys2Proof.Machine

/-- The outcome codes of a response (R84). The unused code values are not produced (R84), so they have no name. -/
inductive Status where
  /-- `OK` (0x0): the command took effect. -/
  | ok
  /-- `ERR_EMPTY` (0x1): `COMMIT` with an empty staging buffer (R227). -/
  | errEmpty
  /-- `ERR_FULL` (0x2): an append that does not fit (R228). -/
  | errFull
  /-- `FLT_COORD` (0x9): a coordinate outside the 8 by 8 domain (R222). -/
  | fltCoord
  /-- `FLT_ILLEGAL` (0xA): an illegal command word (R223). -/
  | fltIllegal
  /-- `FLT_HALTED` (0xF): the block was already halted (R225). -/
  | fltHalted
  deriving DecidableEq, Repr

/-- A response: status, count and data (R83). `Response.word` of Machine/Flags.lean lays it out as the 72-bit `RW`. -/
structure Response where
  status : Status
  cnt    : BitVec 4
  data   : BitVec 64
  deriving DecidableEq, Repr

/-- What the outside world presents to the block for one step: the level of `rst` (R250) and the command word on the
command port, if one is presented (R80). -/
structure PortInput where
  rst : Bool
  cw  : Option CommandWord
  deriving DecidableEq, Repr

/-- The state of the block. The first ten fields are the pieces of R33's table; the last two are the model's own. -/
structure State where
  /-- `FB`, the framebuffer, 64 bits; `COL0` to `COL7` are its slices (R20, R21). -/
  fb       : DisplayState
  /-- `TAG`, 1 bit (R23). -/
  tag      : ModeTag
  /-- `LEN`, 16 bits (R24). -/
  len      : BitVec 16
  /-- `SEQ`, the active sequence: a list of `LEN` entries (R24). -/
  seq      : List Entry
  /-- `CURSOR`, 16 bits (R25). -/
  cursor   : BitVec 16
  /-- `STG`, the staging buffer: a list of `STG_LEN` entries (R27). -/
  stg      : List Entry
  /-- `STG_LEN`, 16 bits (R27). -/
  stgLen   : BitVec 16
  /-- `STG_GLYPH`, 1 bit: the last change of `STG` was a successful `STGCHAR` (R28). -/
  stgGlyph : Bool
  /-- `FAULT`, the sticky latch, 1 bit (R29). -/
  fault    : Bool
  /-- `FCODE`, 4 bits (R29, R236). -/
  fcode    : BitVec 4
  /-- The model's own: the response port, showing the response to the last command performed or ignored; none from reset
  until the first response (R80, R252; log entry 2). -/
  response : Option Response
  /-- The model's own: what the owner presents in the coming steps, the next one first. It is the environment and no
  queue of the block (R8, R10, R80; log entry 1). -/
  inputs   : List PortInput
  deriving DecidableEq, Repr

/-- Why the machine stops without a next state. A fault of the block (`COORD_RANGE`, `ILLEGAL_CMD`) is none of these: it
is a next state with the latch set (R224). -/
inductive Fault where
  /-- Raised by `TICK` where `SEQ` has no entry at `CURSOR`. The spec says that this "cannot arise" (R53, R59), and no
  state that keeps the invariant of R26 reaches it. Safe: the machine stops instead of reading an absent entry. -/
  | seqIndexOutOfRange
  deriving DecidableEq, Repr

/-- Why a command has no meaning in the model. -/
inductive Refusal where
  /-- Raised by an arm of `exec` whose command has no meaning yet. Safe: the machine stops. No arm is left so. -/
  | notModelled (mnemonic : String)
  deriving DecidableEq, Repr

/-- The state after reset under a configuration: the table of R33. DESIGN CHOICE (log entry 21): `CURSOR` takes the cursor of the
configured default mode. R25 says that reset sets it to 0, and the table of open parameters admits a default mode with any cursor in
range; on this hardware both are 0. -/
def State.resetIn (c : Config) : State :=
  { fb       := 0
    tag      := c.defaultMode.tag
    len      := BitVec.ofNat 16 c.defaultMode.entries.length
    seq      := c.defaultMode.entries
    cursor   := c.defaultMode.cursor
    stg      := []
    stgLen   := 0
    stgGlyph := false
    fault    := false
    fcode    := 0
    response := none
    inputs   := [] }

/-- The state after reset of this hardware (R33, R250). -/
def State.reset : State := State.resetIn Config.thisHardware

end Sys2Proof.Machine
end

