-- ==== Sys2Proof/Machine/Flags.lean ====
section
/-! DEFINITION. Codes, flags and packed words: the status and cause codes (R84, R236), the level outputs (R30), the
response word (R83), the `wrap` bit (R170) and the status word of `RDSTAT` (R165). -/

namespace Sys2Proof.Machine

/-- The 4-bit status code (R84). -/
def Status.code : Status → BitVec 4
  | .ok         => 0x0
  | .errEmpty   => 0x1
  | .errFull    => 0x2
  | .fltCoord   => 0x9
  | .fltIllegal => 0xA
  | .fltHalted  => 0xF

/-- The two causes of a fault (R222, R223). -/
inductive Cause where
  /-- `COORD_RANGE`: a logical index outside 0 to 7 (R222). -/
  | coordRange
  /-- `ILLEGAL_CMD`: a command word the decoder calls illegal (R223). -/
  | illegalCmd
  deriving DecidableEq, Repr

/-- The value `FCODE` takes (R236). -/
def Cause.fcode : Cause → BitVec 4
  | .coordRange => 1
  | .illegalCmd => 2

/-- The status of the command that met the cause (R236). -/
def Cause.status : Cause → Status
  | .coordRange => .fltCoord
  | .illegalCmd => .fltIllegal

/-- The class of an outcome (R9, R84). -/
inductive OutcomeClass where
  | ok
  | reject
  | fault
  | ignored
  deriving DecidableEq, Repr

/-- The outcome class of a status (R84, column "outcome class"). -/
def Status.outcomeClass : Status → OutcomeClass
  | .ok         => .ok
  | .errEmpty   => .reject
  | .errFull    => .reject
  | .fltCoord   => .fault
  | .fltIllegal => .fault
  | .fltHalted  => .ignored

/-- The level output `fault` shows `FAULT` at all times (R30). -/
def State.faultOutput (s : State) : Bool := s.fault

/-- The level output `fcode` shows `FCODE` at all times (R30). -/
def State.fcodeOutput (s : State) : BitVec 4 := s.fcode

/-- The 72-bit response word `RW`: status 71:68, count 67:64, data 63:0 (R83). -/
def Response.word (r : Response) : ResponseWord := r.status.code ++ r.cnt ++ r.data

/-- The response of a command whose outcome is not `ok`: count and data are 0 (R83). -/
def Response.bare (st : Status) : Response := { status := st, cnt := 0, data := 0 }

/-- The `wrap` bit: 1 exactly when the cursor is 0 after the tick (R155, R170). -/
def wrapBit (cursorAfter : BitVec 16) : BitVec 1 := BitVec.ofBool (cursorAfter == 0)

/-- The data word of `RDSTAT` (R165). -/
def statusWord (s : State) : BitVec 64 :=
  0#14 ++ BitVec.ofBool s.stgGlyph ++ tagBit s.tag ++ s.stgLen ++ s.len ++ s.cursor

end Sys2Proof.Machine
end

