-- ==== Sys2Proof/Machine/Operands.lean ====
section
/-! DEFINITION. The operand forms: columns of a 64-bit pattern (R21, R22, R12), entries of a sequence (R24), logical cells
(R139) and physical coordinates in a response (R95). -/

namespace Sys2Proof.Machine

/-- `col(S, k) = S[63-8k : 56-8k]`, the Column `k` of a 64-bit pattern: column 0 is the most significant byte (R21). -/
def col (S : DisplayState) (k : Fin 8) : Column := S.extractLsb' (56 - 8 * k.val) 8

/-- `pack(c0, ..., c7)`: column 0 in the most significant byte (R21). -/
def pack (c0 c1 c2 c3 c4 c5 c6 c7 : Column) : DisplayState := c0 ++ c1 ++ c2 ++ c3 ++ c4 ++ c5 ++ c6 ++ c7

/-- At most 8 Columns packed first-column-first from the most significant byte, the unused low bytes 0 (R95, R124). -/
def packList (cs : List Column) : DisplayState :=
  pack (cs.getD 0 0) (cs.getD 1 0) (cs.getD 2 0) (cs.getD 3 0) (cs.getD 4 0) (cs.getD 5 0) (cs.getD 6 0) (cs.getD 7 0)

/-- `split(P)`: the 8 Columns of a pattern in column order (R120). -/
def split (P : DisplayState) : List Column :=
  [col P 0, col P 1, col P 2, col P 3, col P 4, col P 5, col P 6, col P 7]

/-- `x[k]`, the column register `COLk`: a slice of `FB` and no separate storage (R12, R20). -/
def State.colReg (s : State) (k : Fin 8) : Column := col s.fb k

/-- A pattern with Column `k` replaced and the other seven kept: the write `x[k] <- v` on a pattern (R12). -/
def setCol (S : DisplayState) (k : Fin 8) (v : Column) : DisplayState :=
  packList ((split S).set k.val v)

/-- `on(S, row, col) = col(S, col)[row]`: the LED of one logical cell (R22, R190). -/
def on (S : DisplayState) (cell : Cell) : Bool := (col S cell.2).getLsbD cell.1.val

/-- A Column as an entry: zero-extended to 64 bits (R125, R160). -/
def entryOfColumn (c : Column) : Entry := c.setWidth 64

/-- The Column an entry stands for in `Scroll` mode: its low 8 bits; the upper 56 are never read (R24, R155). -/
def columnOfEntry (e : Entry) : Column := e.extractLsb' 0 8

/-- A pair of index operands as a logical cell, where both lie in 0 to 7. Nothing is clamped or wrapped (R60, R139). -/
def cellOfOperands (row col : Nat) : Option Cell :=
  if h : row < 8 ∧ col < 8 then some (⟨row, h.1⟩, ⟨col, h.2⟩) else none

/-- The data of `MAP`: `x` in 15:8 and `y` in 7:0, each zero-extended to 8 bits (R95, R140). -/
def coordData (a : PhysAddr) : BitVec 64 := (a.x.setWidth 8 ++ a.y.setWidth 8).setWidth 64

/-- The data of `PIXEL`: the on/off bit in 16, `x` in 15:8, `y` in 7:0 (R95, R194). -/
def pixelData (lit : Bool) (a : PhysAddr) : BitVec 64 :=
  (BitVec.ofBool lit ++ a.x.setWidth 8 ++ a.y.setWidth 8).setWidth 64

end Sys2Proof.Machine
end

