-- ==== Sys2Proof/Machine/Ops.lean ====
section
/-! DEFINITION. The shared operations: how a command ends (R9, R12, R83), taking a fault and leaving the halted state (R224,
R225, R226), the table reads (R110, R135), the two writers of `FB` (R150, R151), the sequence memories (R12, R24, R27) and the
Display Mode (R152, R162). -/

namespace Sys2Proof.Machine

/-- The outcome of one step of this machine. -/
abbrev Result := Host.Outcome State Fault Refusal

/-! How a command ends. -/

/-- `respond(OK, cnt, data)` (R12, R83). -/
def respondOk (cnt : BitVec 4) (data : BitVec 64) (s : State) : State :=
  { s with response := some { status := .ok, cnt := cnt, data := data } }

/-- `reject(status)`: no state changes, the response carries the status (R9, R12, R231). -/
def reject (st : Status) (s : State) : State := { s with response := some (.bare st) }

/-- Fault entry, `raise Fault(code)`: `FAULT <- 1`, `FCODE <- code`, all other state kept, response `0x8 + code` (R224). -/
def raiseFault (c : Cause) (s : State) : State :=
  { s with fault := true, fcode := c.fcode, response := some (.bare c.status) }

/-- A command that meets a halted block is ignored: no state changes, response `FLT_HALTED` (R225). -/
def ignoreHalted (s : State) : State := { s with response := some (.bare .fltHalted) }

/-- The one way out of the halted state: reset puts every piece of state at its value of R33 (R226, R250). The command port's
coming inputs belong to the environment and stay (log entry 1). -/
def applyReset (c : Config) (s : State) : State := { State.resetIn c with inputs := s.inputs }

/-- Perform a command unless the block is halted; a halted block ignores it (R225, R230 steps 2 and 3; log entry 15). -/
def whenRunning (s : State) (run : State → Result) : Result :=
  if s.fault then .next (ignoreHalted s) else run s

/-! The constant tables. -/

/-- `MemRead(GLYPH, ch) = glyph(ch)`: total; an unsupported character reads the glyph-missing pattern (R110, R111). -/
def glyphRom (c : Config) (ch : CharCode) : DisplayState :=
  match c.font.lookup ch with
  | some pattern => pattern
  | none         => c.glyphMissing

/-- `MemRead(CMAP, (row, col)) = physical(row, col)` on the 8 by 8 domain (R135). -/
def physical (c : Config) (cell : Cell) : PhysAddr := coordAt c.coordMap cell

/-! The framebuffer. -/

/-- `scroll_in(S, c)`: column 0 is discarded, columns 1 to 7 become 0 to 6, `c` becomes column 7 (R150). -/
def scrollIn (S : DisplayState) (c : Column) : DisplayState :=
  pack (col S 1) (col S 2) (col S 3) (col S 4) (col S 5) (col S 6) (col S 7) c

/-- `replace(S, f) = f`: the current state is discarded, the frame is adopted as it stands (R151). -/
def replaceFrame (_ : DisplayState) (f : DisplayState) : DisplayState := f

/-- `x[k] <- v`: the write of one column register, the other seven kept (R12). No command does it alone (R22). -/
def State.setColReg (s : State) (k : Fin 8) (v : Column) : State := { s with fb := setCol s.fb k v }

/-! The sequence memories `SEQ` and `STG`. -/

/-- The canonical form of a sequence memory: the list holds exactly as many entries as its length register says (R24, R27;
log entry 14). -/
abbrev SeqMemory.wf (n : BitVec 16) (m : List Entry) : Prop := m.length = n.toNat

/-- `MemRead(SEQ, CURSOR)`: the entry at the cursor, where `CURSOR < LEN` (R53, R155). -/
def State.currentEntry (s : State) : Option Entry :=
  if s.cursor.toNat < s.len.toNat then s.seq[s.cursor.toNat]? else none

/-- An append of entries at the end of `STG`, with the value `STG_GLYPH` takes (R12 `MemWrite`, R125, R160, R161). -/
def State.appendStg (s : State) (new : List Entry) (glyph : Bool) : State :=
  { s with stg := s.stg ++ new, stgLen := s.stgLen + BitVec.ofNat 16 new.length, stgGlyph := glyph }

/-- The entries do not all fit: `STG_LEN + n > SEQ_MAX`, as natural numbers (R167 item 3, R228). -/
def State.wouldOverflow (s : State) (seqMax n : Nat) : Bool := decide (s.stgLen.toNat + n > seqMax)

/-- An append command: all of its entries or, when they do not fit, none and `ERR_FULL` (R62, R228). The response carries the
number of entries appended and the new `STG_LEN` (R95). -/
def appendCommand (seqMax : Nat) (new : List Entry) (glyph : Bool) (s : State) : State :=
  if s.wouldOverflow seqMax new.length then reject .errFull s
  else
    let s' := s.appendStg new glyph
    respondOk (BitVec.ofNat 4 new.length) (s'.stgLen.setWidth 64) s'

/-- The staging buffer emptied (R159, R162). -/
def State.clearStg (s : State) : State := { s with stg := [], stgLen := 0, stgGlyph := false }

/-! The Display Mode. -/

/-- `(CURSOR + 1) mod LEN` on natural numbers (R155, R167 item 2). -/
def nextCursor (cursor len : BitVec 16) : BitVec 16 := BitVec.ofNat 16 ((cursor.toNat + 1) % len.toNat)

/-- `FB'` of `advance`: a Column shifted in, or the whole frame (R152). -/
def advanceFrame (tag : ModeTag) (fb : DisplayState) (e : Entry) : DisplayState :=
  match tag with
  | .scroll  => scrollIn fb (columnOfEntry e)
  | .animate => replaceFrame fb e

/-- `advance`, the source's `advance_mode()`, with the entry already read at the cursor before the increment (R152). -/
def State.advance (s : State) (e : Entry) : State :=
  { s with fb := advanceFrame s.tag s.fb e, cursor := nextCursor s.cursor s.len }

/-- The staging buffer installed as the Display Mode, as one swap; the staging buffer is left empty (R162, R163). -/
def State.install (s : State) (tag : ModeTag) : State :=
  State.clearStg { s with tag := tag, len := s.stgLen, seq := s.stg, cursor := 0 }

end Sys2Proof.Machine
end

