-- ==== Sys2Proof/Machine/Framebuffer.lean ====
section
/-! DEFINITION. The framebuffer commands and the sequencer: `SCROLLIN` (R153), `REPLACE` (R154), `TICK` (R155). -/

namespace Sys2Proof.Machine

/-- `SCROLLIN col8`: one Column shifted into `FB`; the Display Mode is untouched (R153). -/
def execScrollin (col8 : Column) (s : State) : Result :=
  whenRunning s fun s => .next (respondOk 0 0 { s with fb := scrollIn s.fb col8 })

/-- `REPLACE frame`: `FB` becomes the frame; the Display Mode is untouched (R154). -/
def execReplace (frame : DisplayState) (s : State) : Result :=
  whenRunning s fun s => .next (respondOk 0 0 { s with fb := replaceFrame s.fb frame })

/-- `TICK`: the entry at the cursor is played into `FB` and the cursor advances, as one step; the response carries `wrap`
(R155, R170). `SEQ` has an entry at the cursor in every state that keeps R26's invariant; where it has none the machine stops
(R53, R59; log entry 4). -/
def execTick (s : State) : Result :=
  whenRunning s fun s =>
    match s.currentEntry with
    | some e =>
      let s' := s.advance e
      .next (respondOk 0 ((wrapBit s'.cursor).setWidth 64) s')
    | none   => .fault .seqIndexOutOfRange

end Sys2Proof.Machine
end

