-- ==== Sys2Proof/Machine/Compositor.lean ====
section
/-! DEFINITION. The glyph compositor (R120 to R123): from a character to its columns, from a text to its column stream. -/

namespace Sys2Proof.Machine

/-- The Columns of a pattern with the leading zero Columns removed, and one zero Column for an all-zero pattern. Zero Columns
after the first non-zero one are kept (R121). -/
def trimmedColumns (P : DisplayState) : List Column :=
  let cs := split P
  if cs.all (· == 0) then [0] else cs.drop (cs.findIdx (· != 0))

/-- `columns_for_char(ch)` (R121). -/
def columnsForChar (c : Config) (ch : CharCode) : List Column := trimmedColumns (glyphRom c ch)

/-- `columns_for_string(text)`: exactly one spacer between glyphs, none before the first or after the last (R123). -/
def columnsForString (c : Config) : List CharCode → List Column
  | []            => []
  | [t]           => columnsForChar c t
  | t :: u :: ts  => columnsForChar c t ++ 0 :: columnsForString c (u :: ts)

/-- The Columns one `STGCHAR` appends: a spacer in front when the last change of `STG` was a `STGCHAR` (R28, R125). -/
def stagedColumns (c : Config) (glyphBefore : Bool) (ch : CharCode) : List Column :=
  (if glyphBefore then [0] else []) ++ columnsForChar c ch

end Sys2Proof.Machine
end

