-- ==== Sys2Proof/Machine/Lookup.lean ====
section
/-! DEFINITION. The pure lookups: `GLYPH` (R115), `COLS` (R124), `MAP` (R140). Each `...In` takes the configuration; the
meaning of the command on this hardware is that one at `Config.thisHardware`. -/

namespace Sys2Proof.Machine

/-- `GLYPH ch`: the 64-bit pattern of a character (R115). -/
def glyphIn (c : Config) (ch : CharCode) (s : State) : Result :=
  whenRunning s fun s => .next (respondOk 0 (glyphRom c ch) s)

/-- `GLYPH` on this hardware (R115). -/
def execGlyph (ch : CharCode) (s : State) : Result := glyphIn .thisHardware ch s

/-- `COLS ch`: the trimmed columns of a character, their number in the count (R124). -/
def colsIn (c : Config) (ch : CharCode) (s : State) : Result :=
  whenRunning s fun s =>
    let cs := columnsForChar c ch
    .next (respondOk (BitVec.ofNat 4 cs.length) (packList cs) s)

/-- `COLS` on this hardware (R124). -/
def execCols (ch : CharCode) (s : State) : Result := colsIn .thisHardware ch s

/-- `MAP row, col`: the physical address of a logical cell; outside the domain the fault `COORD_RANGE` (R139, R140). -/
def mapIn (c : Config) (row col : Nat) (s : State) : Result :=
  whenRunning s fun s =>
    match cellOfOperands row col with
    | some cell => .next (respondOk 0 (coordData (physical c cell)) s)
    | none      => .next (raiseFault .coordRange s)

/-- `MAP` on this hardware (R140). -/
def execMap (row col : Nat) (s : State) : Result := mapIn .thisHardware row col s

end Sys2Proof.Machine
end

