-- ==== Sys2Proof/Machine/Observe.lean ====
section
/-! DEFINITION. The commands that read: `PIXEL` (R194), `RDFB` (R164), `RDSTAT` (R165). They write no state (R61). -/

namespace Sys2Proof.Machine

/-- `PIXEL row, col`: the physical address and the on/off bit of one logical cell; outside the domain `COORD_RANGE` (R194). -/
def pixelIn (c : Config) (row col : Nat) (s : State) : Result :=
  whenRunning s fun s =>
    match cellOfOperands row col with
    | some cell => .next (respondOk 0 (pixelData (on s.fb cell) (physical c cell)) s)
    | none      => .next (raiseFault .coordRange s)

/-- `PIXEL` on this hardware (R194). -/
def execPixel (row col : Nat) (s : State) : Result := pixelIn .thisHardware row col s

/-- `RDFB`: the framebuffer (R164). -/
def execRdfb (s : State) : Result := whenRunning s fun s => .next (respondOk 0 s.fb s)

/-- `RDSTAT`: the sequencer and staging status (R165). -/
def execRdstat (s : State) : Result := whenRunning s fun s => .next (respondOk 0 (statusWord s) s)

end Sys2Proof.Machine
end

