-- ==== Sys2Proof/Machine/Staging.lean ====
section
/-! DEFINITION. Building and installing a Display Mode: `STGCLR` (R159), `STGCOL` (R160), `STGFRM` (R161), `STGCHAR` (R125),
`COMMIT` (R162). -/

namespace Sys2Proof.Machine

/-- `STGCLR`: the staging buffer emptied (R159). -/
def execStgclr (s : State) : Result := whenRunning s fun s => .next (respondOk 0 0 s.clearStg)

/-- `STGCOL col8`: one raw Column appended, zero-extended, or `ERR_FULL` (R160). -/
def stgcolIn (c : Config) (col8 : Column) (s : State) : Result :=
  whenRunning s fun s => .next (appendCommand c.seqMax [entryOfColumn col8] false s)

/-- `STGCOL` on this hardware (R160). -/
def execStgcol (col8 : Column) (s : State) : Result := stgcolIn .thisHardware col8 s

/-- `STGFRM frame`: one frame appended, or `ERR_FULL` (R161). -/
def stgfrmIn (c : Config) (frame : DisplayState) (s : State) : Result :=
  whenRunning s fun s => .next (appendCommand c.seqMax [frame] false s)

/-- `STGFRM` on this hardware (R161). -/
def execStgfrm (frame : DisplayState) (s : State) : Result := stgfrmIn .thisHardware frame s

/-- `STGCHAR ch`: a character's Columns appended, with the spacer in front when the previous append was a glyph, all of them
or `ERR_FULL` (R125). -/
def stgcharIn (c : Config) (ch : CharCode) (s : State) : Result :=
  whenRunning s fun s =>
    .next (appendCommand c.seqMax ((stagedColumns c s.stgGlyph ch).map entryOfColumn) true s)

/-- `STGCHAR` on this hardware (R125). -/
def execStgchar (ch : CharCode) (s : State) : Result := stgcharIn .thisHardware ch s

/-- `COMMIT tag`: the staging buffer installed as the Display Mode; an empty one is rejected with `ERR_EMPTY` (R162, R227). The
response carries the installed length. -/
def execCommit (tag : ModeTag) (s : State) : Result :=
  whenRunning s fun s =>
    if s.stgLen = 0 then .next (reject .errEmpty s)
    else .next (respondOk 0 (s.stgLen.setWidth 64) (s.install tag))

end Sys2Proof.Machine
end

