-- ==== Sys2Proof/Machine/Dispatch.lean ====
section
/-! DEFINITION. One arm per command: its meaning on this hardware. -/

namespace Sys2Proof.Machine

def exec (i : Instr) (s : State) : Host.Outcome State Fault Refusal :=
  match i with
  | .glyph ch => Sys2Proof.Machine.execGlyph ch s
  | .cols ch => Sys2Proof.Machine.execCols ch s
  | .map row col => Sys2Proof.Machine.execMap row col s
  | .scrollin col8 => Sys2Proof.Machine.execScrollin col8 s
  | .replace frame => Sys2Proof.Machine.execReplace frame s
  | .tick => Sys2Proof.Machine.execTick s
  | .pixel row col => Sys2Proof.Machine.execPixel row col s
  | .rdfb => Sys2Proof.Machine.execRdfb s
  | .rdstat => Sys2Proof.Machine.execRdstat s
  | .stgclr => Sys2Proof.Machine.execStgclr s
  | .stgcol col8 => Sys2Proof.Machine.execStgcol col8 s
  | .stgfrm frame => Sys2Proof.Machine.execStgfrm frame s
  | .stgchar ch => Sys2Proof.Machine.execStgchar ch s
  | .commit tag => Sys2Proof.Machine.execCommit tag s

end Sys2Proof.Machine
end

