-- ==== Sys2Proof/Machine/Port.lean ====
section
/-! DEFINITION. The command port: one input taken per step, and the order of checks of R230. -/

namespace Sys2Proof.Machine

/-- A command word on the port (R80): an illegal one is the fault `ILLEGAL_CMD`, a legal one is run; a halted block ignores
either (R90, R225, R230 steps 2 and 3). `run` is the meaning of the commands. -/
def serveWord (run : Instr → State → Result) (w : CommandWord) (s : State) : Result :=
  match decode w with
  | .error _ => whenRunning s fun s => .next (raiseFault .illegalCmd s)
  | .ok i    => run i s

/-- One input: reset wins and a command presented with it is lost (R252, R230 step 1); no command, nothing happens (R80). -/
def serveInput (c : Config) (run : Instr → State → Result) (p : PortInput) (s : State) : Result :=
  if p.rst then .next (applyReset c s)
  else
    match p.cw with
    | some w => serveWord run w s
    | none   => .next s

/-- The next input is taken off the port and served; with none presented no state changes (R8, R80). -/
def serveNext (c : Config) (run : Instr → State → Result) (s : State) : Result :=
  match s.inputs with
  | []        => .next s
  | p :: rest => serveInput c run p { s with inputs := rest }

/-- A command word presented in front of the inputs already to come. -/
def State.presentWord (s : State) (w : CommandWord) : State := { s with inputs := ⟨false, some w⟩ :: s.inputs }

/-- A sequence of commands presented in order, in front of the inputs already to come (R65). -/
def State.presentAll (s : State) (is : List Instr) : State :=
  { s with inputs := is.map (fun i => ⟨false, some (encode i)⟩) ++ s.inputs }

/-- Commands taking effect one at a time, each on the state the one before it left (R65). -/
def execAll (run : Instr → State → Result) : List Instr → State → Result
  | [], s      => .next s
  | i :: is, s =>
    match run i s with
    | .next s'   => execAll run is s'
    | .fault r   => .fault r
    | .refused r => .refused r

end Sys2Proof.Machine
end

