-- ==== Sys2Proof/Machine/Step.lean ====
section
/-! DEFINITION. The step of this hardware: the next input of the command port, served by `exec`. -/

namespace Sys2Proof.Machine

/-- One step (R8, R80, R230). -/
def step (s : State) : Host.Outcome State Fault Refusal := serveNext Config.thisHardware exec s

/-- The state in which the next command the owner presents is the given table word (log entry 3). -/
def State.withFetchWord (s : State) (nbits w : Nat) : State :=
  s.presentWord (BitVec.ofNat 68 (tableBits nbits w))

end Sys2Proof.Machine
end

