-- ==== Sys2Proof/Machine/Authoring.lean ====
section
/-! DEFINITION. The authoring path's conversion pair (R210, R211), software outside the block (R4). -/

namespace Sys2Proof.Machine

/-- A binary digit of a string (R210). -/
def isBinaryDigit (ch : Char) : Bool := ch == '0' || ch == '1'

/-- The value of binary digits read most significant first (R210). -/
def binaryNumeral (digits : List Char) : Nat := digits.foldl (fun v d => 2 * v + (if d == '1' then 1 else 0)) 0

/-- `binary_string_to_u64(s)`: other characters are dropped; up to 64 digits are read as a numeral, more give no value (R210;
log entry 19). -/
def binaryStringToU64 (s : List Char) : Option (BitVec 64) :=
  let d := s.filter isBinaryDigit
  if d.length ≤ 64 then some (BitVec.ofNat 64 (binaryNumeral d)) else none

/-- `u64_to_binary_string(V)`: 64 characters, character `j` is bit `63 - j` (R211). -/
def u64ToBinaryString (V : BitVec 64) : List Char :=
  (List.range 64).map fun j => if V.getLsbD (63 - j) then '1' else '0'

end Sys2Proof.Machine
end

