-- ==== Sys2Proof/Machine/Configured.lean ====
section
/-! DEFINITION. The machine under any configuration, for claims about every admissible one (R6, R116). `step` is this machine at
`Config.thisHardware` (Laws/Step.lean). -/

namespace Sys2Proof.Machine

/-- The meaning of a command under a configuration. -/
def execIn (c : Config) (i : Instr) (s : State) : Result :=
  match i with
  | .glyph ch      => glyphIn c ch s
  | .cols ch       => colsIn c ch s
  | .map row col   => mapIn c row col s
  | .scrollin col8 => execScrollin col8 s
  | .replace frame => execReplace frame s
  | .tick          => execTick s
  | .pixel row col => pixelIn c row col s
  | .rdfb          => execRdfb s
  | .rdstat        => execRdstat s
  | .stgclr        => execStgclr s
  | .stgcol col8   => stgcolIn c col8 s
  | .stgfrm frame  => stgfrmIn c frame s
  | .stgchar ch    => stgcharIn c ch s
  | .commit tag    => execCommit tag s

/-- One step under a configuration. -/
def stepIn (c : Config) (s : State) : Result := serveNext c (execIn c) s

end Sys2Proof.Machine
end

