-- ==== Sys2Proof/Machine/Pseudo.lean ====
section
/-! DEFINITION. The pseudo-commands (R92): fixed sequences of real commands, and the run of such a sequence for as long as every
outcome is `ok`. They are no commands of the block and have no encoding of their own. -/

namespace Sys2Proof.Machine

/-- The six pseudo-commands of R92. `RENDER` carries the order of its 64 commands, which is open (R193). -/
inductive Pseudo where
  | str (text : List CharCode)
  | loadText (text : List CharCode)
  | loadScroll (columns : List Column)
  | loadAnim (frames : List DisplayState)
  | ticks (n : Nat)
  | render (order : List Cell)
  deriving DecidableEq, Repr

/-- `RENDER` issues each of the 64 cells exactly once (R195); the others are well formed as they stand. -/
def Pseudo.wellFormed : Pseudo → Bool
  | .str _          => true
  | .loadText _     => true
  | .loadScroll _   => true
  | .loadAnim _     => true
  | .ticks _        => true
  | .render order   => renderOrderWf order

/-- The column "expands to" of R92. -/
def Pseudo.expand : Pseudo → List Instr
  | .str text           => text.map .stgchar
  | .loadText text      => [.stgclr] ++ text.map .stgchar ++ [.commit .scroll]
  | .loadScroll columns => [.stgclr] ++ columns.map .stgcol ++ [.commit .scroll]
  | .loadAnim frames    => [.stgclr] ++ frames.map .stgfrm ++ [.commit .animate]
  | .ticks n            => List.replicate n .tick
  | .render order       => order.map fun cell => .pixel cell.1.val cell.2.val

/-- The state after one command and its response, when the outcome is `ok` (R9). -/
def okOutcome (r : Result) : Option (State × Response) :=
  match r with
  | .next s' =>
    match s'.response with
    | some rsp => if rsp.status = .ok then some (s', rsp) else none
    | none     => none
  | .fault _   => none
  | .refused _ => none

/-- A sequence of commands run for as long as every outcome is `ok`: the last state and the responses in order (R92: it "stops
being meaningful at the first of them whose outcome is not `ok`"). -/
def runOk (c : Config) : List Instr → State → Option (State × List Response)
  | [], s      => some (s, [])
  | i :: is, s =>
    match okOutcome (execIn c i s) with
    | some (s', rsp) => (runOk c is s').map fun p => (p.1, rsp :: p.2)
    | none           => none

end Sys2Proof.Machine
end

