-- ==== Sys2Proof/Machine/Renderer.lean ====
section
/-! DEFINITION. The pure functions of the display pixel mux (R190 to R192) and the inverse of the coordinate table (R141). A render
is a set of 64 entries; where a list of them is needed its order is the argument `order`, the open parameter `RENDER_ORDER`
(R193; log entry 7). -/

namespace Sys2Proof.Machine

/-- `grid(S)`: every logical cell with its on/off bit, in the given order (R190, R193). -/
def grid (order : List Cell) (S : DisplayState) : List (Cell × Bool) := order.map fun cell => (cell, on S cell)

/-- `render(S)`: the physical address of every logical cell with its on/off bit, in the given order (R191, R193). -/
def render (c : Config) (order : List Cell) (S : DisplayState) : List (PhysAddr × Bool) :=
  order.map fun cell => (physical c cell, on S cell)

/-- The logical cell wired to a physical address, if there is one (R138, R141). -/
def cellAt (c : Config) (a : PhysAddr) : Option Cell := allCells.find? fun cell => physical c cell == a

/-- `led(S, x, y)`: the on/off bit the render gives a physical address; none for an unwired one (R192). -/
def led (c : Config) (S : DisplayState) (a : PhysAddr) : Option Bool := (cellAt c a).map (on S)

/-- The wired addresses of this hardware's table: even `x` (R54, R63, R136 item 1). -/
def wired (a : PhysAddr) : Bool := a.x.getLsbD 0 == false

/-- The inverse of this hardware's table as R141 writes it: `col = x / 2`, `row = 6 - y` for `y` up to 6 and 7 for `y = 7`. -/
def inverseCell (a : PhysAddr) : Cell :=
  (Fin.ofNat 8 (if a.y.toNat = 7 then 7 else 6 - a.y.toNat), Fin.ofNat 8 (a.x.toNat / 2))

/-- The render entry a `PIXEL` response carries (R95, R194): `on` in bit 16, `x` in 15:8, `y` in 7:0. -/
def entryOfResponse (r : Response) : PhysAddr × Bool :=
  (⟨r.data.extractLsb' 8 4, r.data.extractLsb' 0 3⟩, r.data.getLsbD 16)

end Sys2Proof.Machine
end

