-- ==== Sys2Proof/Machine/Boundary.lean ====
section
/-! DEFINITION. The boundary, outside the block and no part of its state (R4, R8, R32): the display controller's three-phase write
contract (R207, R258, R66) and one tick of the owner (R205). The block never reads any of it. -/

namespace Sys2Proof.Machine

/-- The three operations of the write contract (R207). -/
inductive ControllerOp where
  | clearAll
  | setOne (a : PhysAddr) (lit : Bool)
  | commitFlush
  deriving DecidableEq, Repr

/-- The controller as the contract lets one speak of it: the cell writes since the last `clear-all`, the latest first, and what is
shown. `shown` is none where the source does not say what is visible (R258; log entry 9). -/
structure Controller where
  written : List (PhysAddr × Bool)
  shown   : Option (List (PhysAddr × Bool))
  deriving DecidableEq, Repr

/-- The effect of one operation: nothing of a new picture is promised visible before `commit/flush` (R66, R207, R258). -/
def Controller.apply (k : Controller) : ControllerOp → Controller
  | .clearAll     => { written := [], shown := none }
  | .setOne a lit => { written := (a, lit) :: k.written, shown := none }
  | .commitFlush  => { k with shown := some k.written }

/-- The cell at an address among the cell writes since `clear-all`: off where none names it (R196). -/
def cellLit (written : List (PhysAddr × Bool)) (a : PhysAddr) : Bool := (written.lookup a).getD false

/-- The operations of one tick's push: `clear-all`, the entries of a render in its order, `commit/flush` (R207). -/
def pushOps (entries : List (PhysAddr × Bool)) : List ControllerOp :=
  .clearAll :: entries.map (fun e => .setOne e.1 e.2) ++ [.commitFlush]

/-- The owner's two delays; neither has a value in the source (R208). -/
inductive Delay where
  | tickDelay
  | wrapPause
  deriving DecidableEq, Repr

/-- What the owner does, one action at a time (R205). -/
inductive OwnerAction where
  | command (i : Instr)
  | controller (op : ControllerOp)
  | sleep (d : Delay)
  deriving DecidableEq, Repr

/-- What the rules leave to the owner in one tick: the order of its `RENDER` (R193, R195), and whether it takes the long pause at the
wrap-around boundary of an `Animate` sequence too, which the source does not say (R208, N14; log entry 22). -/
structure OwnerChoice where
  order          : List Cell
  pauseInAnimate : Bool
  deriving DecidableEq, Repr

/-- The block with the display controller its owner writes to (R205, R207). The block reads nothing of the controller (R8). -/
structure Board where
  block      : State
  controller : Controller
  deriving DecidableEq, Repr

/-- The long pause applies at a wrap-around boundary in this Display Mode: in `Scroll` always (R208), in `Animate` where the owner chooses
it (N14; log entry 22). -/
def pauseApplies (tag : ModeTag) (pauseInAnimate : Bool) : Bool :=
  match tag with
  | .scroll  => true
  | .animate => pauseInAnimate

/-- The sleep that ends a tick: the long one exactly where the `TICK` response has `wrap = 1` and the long pause applies (R170, R205,
R208). -/
def sleepAfter (tag : ModeTag) (pauseInAnimate : Bool) (tick : Response) : Delay :=
  if tick.data.getLsbD 0 && pauseApplies tag pauseInAnimate then .wrapPause else .tickDelay

/-- The commands of one tick of the owner: `TICK`, then the 64 of `RENDER` (R205, R257). -/
def tickCommands (order : List Cell) : List Instr := .tick :: Pseudo.expand (.render order)

/-- One tick of the owner (R205): `TICK`; `RENDER`, each of the 64 cells once; the entries the 64 responses carry, handed to the controller
by the three-phase write; the sleep, by the Display Mode that was played. The board after it, and what the owner did in order. No value
where the order is none of the 64 cells, or where a command's outcome is not `ok`: the run has gone wrong (R225). -/
def ownerTick (c : Config) (choice : OwnerChoice) (b : Board) : Option (Board × List OwnerAction) :=
  if renderOrderWf choice.order then
    match runOk c (tickCommands choice.order) b.block with
    | some (s, tick :: pixels) =>
      let push := pushOps (pixels.map entryOfResponse)
      some ({ block := s, controller := push.foldl Controller.apply b.controller },
        (tickCommands choice.order).map .command ++ push.map .controller ++
          [.sleep (sleepAfter s.tag choice.pauseInAnimate tick)])
    | some (_, [])             => none
    | none                     => none
  else none

/-- A finite prefix of the loop, which is "repeated forever" (R205, R10): one tick after the other, each with a choice of its own. -/
def ownerLoop (c : Config) : List OwnerChoice → Board → Option (Board × List OwnerAction)
  | [], b                => some (b, [])
  | choice :: choices, b =>
    match ownerTick c choice b with
    | some (b', done) => (ownerLoop c choices b').map fun r => (r.1, done ++ r.2)
    | none            => none

end Sys2Proof.Machine
end

