-- ==== Sys2Proof/Safety.lean ====
section
/-! DEFINITION. What a good state is, in the terms claims use: the invariants of the block (R24, R26 to R29, R84) and what "gone wrong"
means for a run (R225). -/

namespace Sys2Proof.Machine

/-- R26 with R24: `SEQ` has `LEN` entries, `1 <= LEN <= SEQ_MAX`, `CURSOR < LEN`. -/
abbrev ModeInv (c : Config) (s : State) : Prop :=
  SeqMemory.wf s.len s.seq ∧ 1 ≤ s.len.toNat ∧ s.len.toNat ≤ c.seqMax ∧ s.cursor.toNat < s.len.toNat

/-- R27 with R28: `STG` has `STG_LEN` entries, at most `SEQ_MAX`; where `STG_GLYPH` is 1 the buffer is not empty. -/
abbrev StagingInv (c : Config) (s : State) : Prop :=
  SeqMemory.wf s.stgLen s.stg ∧ s.stgLen.toNat ≤ c.seqMax ∧ (s.stgGlyph = true → 1 ≤ s.stgLen.toNat)

/-- R29: `FCODE` is 0 while running, and the code of a fault while halted (R236: 1 or 2). -/
abbrev LatchInv (s : State) : Prop :=
  (s.fault = false → s.fcode = 0) ∧ (s.fault = true → s.fcode = 1 ∨ s.fcode = 2)

/-- The response on the port: a count or data only with `OK` (R83), and a status of 8 or more exactly when the block has stopped
(R84, R224, R225). -/
abbrev ResponseInv (s : State) : Prop :=
  ∀ r ∈ s.response, (r.status ≠ .ok → r.cnt = 0 ∧ r.data = 0) ∧ (s.fault = true ↔ 8 ≤ r.status.code.toNat)

/-- The invariant of the block under a configuration. -/
abbrev InvIn (c : Config) (s : State) : Prop := ModeInv c s ∧ StagingInv c s ∧ LatchInv s ∧ ResponseInv s

/-- The invariant of this hardware. -/
abbrev Inv (s : State) : Prop := InvIn Config.thisHardware s

/-- The pieces of state of R33's table are the same in two states: all of State but the response port and the coming inputs. -/
abbrev SameBlock (s t : State) : Prop :=
  t = { s with response := t.response, inputs := t.inputs }

/-- A run has gone wrong when it has reached `FAULT = 1` (R225). -/
abbrev WentWrong (s : State) : Prop := s.fault = true

end Sys2Proof.Machine
end

