-- ==== Sys2Proof/Certificates/Slice0/Obligations.lean ====
section
/-! DEFINITION. The statements for the provers. Each docstring names the rules it formalises. `exec` and `step` are this hardware's
machine (`Config.thisHardware`: the reference ROM of R116, the table of R137, `SEQ_MAX` = 256); a statement that quantifies over a
configuration says so. -/

open Sys2Proof Sys2Proof.Machine

/-! ## Reset, the port and the step -/

/-- R33, R250: the value of every piece of state after reset. -/
def Obligations.ResetGivesTheSpecifiedState : Prop :=
  State.reset.fb = 0x0000000000000000#64 ∧ State.reset.tag = .scroll ∧ State.reset.len = 1#16 ∧
  State.reset.seq = [0x0000000000000000#64] ∧ State.reset.cursor = 0#16 ∧ State.reset.stg = [] ∧ State.reset.stgLen = 0#16 ∧
  State.reset.stgGlyph = false ∧ State.reset.fault = false ∧ State.reset.fcode = 0#4

/-- R250, R252, R230 step 1: asserting `rst` puts every piece of state at its reset value, from every state, the halted ones too;
a command presented with it is lost and gets no response. That the coming inputs stay and that the response port is cleared is the
model's choice (log entries 1 and 2). -/
def Obligations.ResetInputRestoresTheResetState : Prop :=
  ∀ (s : State) (cw : Option CommandWord) (rest : List PortInput),
    s.inputs = ⟨true, cw⟩ :: rest → step s = .next { State.reset with inputs := rest }

/-- R8, R80: with no command presented, no state changes. -/
def Obligations.NoCommandNothingHappens : Prop :=
  ∀ s : State,
    (s.inputs = [] → step s = .next s) ∧
    (∀ rest, s.inputs = ⟨false, none⟩ :: rest → step s = .next { s with inputs := rest })

/-- R80, R90, R94: a step takes the next command word off the port and, where it decodes to an instruction, is `exec` of it. -/
def Obligations.StepRunsTheDecodedCommand : Prop :=
  ∀ (s : State) (w : CommandWord) (i : Instr) (rest : List PortInput),
    s.inputs = ⟨false, some w⟩ :: rest → decode w = .ok i → step s = exec i { s with inputs := rest }

/-- R65: a sequence of well-formed commands presented in order takes effect one command at a time in that order, each on the
state the one before it left. That one step serves one command, and that the commands to come are a list of the model, is the model's
choice (log entries 1 and 17). -/
def Obligations.PresentedCommandsTakeEffectInOrder : Prop :=
  ∀ (is : List Instr) (s : State), (∀ i ∈ is, i.wellFormed = true) →
    Host.Core.run Sys2Proof.core is.length (s.presentAll is) = execAll exec is s

/-- R6, R116: the step of this hardware is the configured step at this hardware's configuration. -/
def Obligations.StepIsTheConfiguredStepOfThisHardware : Prop :=
  (∀ (i : Instr) (s : State), exec i s = execIn Config.thisHardware i s) ∧
  (∀ s : State, step s = stepIn Config.thisHardware s)

/-! ## Encoding -/

/-- R81, R82, R85: decoding the word of a well-formed command gives the command back, every operand at every value. -/
def Obligations.DecodeOfEncodeIsTheInstruction : Prop :=
  ∀ i : Instr, i.wellFormed = true → decode (encode i) = .ok i

/-- R85, R94: every legal word has one meaning: the command it decodes to is well formed and its word is that word, so no bit of a
legal word is dropped. -/
def Obligations.EncodeOfDecodeIsTheWord : Prop :=
  ∀ (w : CommandWord) (i : Instr), decode w = .ok i → i.wellFormed = true ∧ encode i = w

/-- R85, R94: the decoder accepts exactly the words some row of the opcode map claims, as that row's command; no two rows claim one
word. -/
def Obligations.DecoderAgreesWithTheOpcodeMap : Prop :=
  (∀ (w : CommandWord) (i : Instr), decode w = .ok i →
    ∃ row ∈ opcodeMap, row.claims w = true ∧ row.mnemonic = i.mnemonic) ∧
  (∀ (w : CommandWord) (e : Illegal), decode w = .error e → ∀ row ∈ opcodeMap, row.claims w = false) ∧
  (∀ w : CommandWord, ∀ r₁ ∈ opcodeMap, ∀ r₂ ∈ opcodeMap, r₁.claims w = true → r₂.claims w = true → r₁ = r₂)

/-- R86, R87: which words are illegal, and that every other word is none. The spec has the one answer `Illegal` (R94); the two names by
which the decoder tells R86's words from R87's are the model's choice (log entry 20). -/
def Obligations.IllegalWordsAreRejectedByName : Prop :=
  ∀ w : CommandWord,
    (decode w = .error .opcode ↔ opField w = 0x0#4 ∨ opField w = 0xF#4) ∧
    (decode w = .error .reservedBit ↔
      (opField w ∈ [0x1#4, 0x2#4, 0x4#4, 0xB#4, 0xD#4] ∧ argField w >>> 8 ≠ 0) ∨
      (opField w ∈ [0x3#4, 0x7#4] ∧ argField w >>> 16 ≠ 0) ∨
      (opField w = 0xE#4 ∧ argField w >>> 1 ≠ 0) ∨
      (opField w ∈ [0x6#4, 0x8#4, 0x9#4, 0xA#4] ∧ argField w ≠ 0))

/-- Words the spec writes out (the examples of R115, R124, R140, R153, R155, R160, R161, R162, R194) decode to their commands. -/
def Obligations.WordsTheSpecWritesOutDecode : Prop :=
  decode 0x10000000000000041#68 = .ok (.glyph 0x41) ∧ decode 0x20000000000000020#68 = .ok (.cols 0x20) ∧
  decode 0x30000000000000700#68 = .ok (.map 7 0) ∧ decode 0x4000000000000006C#68 = .ok (.scrollin 0x6C) ∧
  decode 0x60000000000000000#68 = .ok .tick ∧ decode 0x70000000000000100#68 = .ok (.pixel 1 0) ∧
  decode 0xB00000000000000FF#68 = .ok (.stgcol 0xFF) ∧
  decode 0xC3E7EC8C87E3E0000#68 = .ok (.stgfrm 0x3E7EC8C87E3E0000) ∧
  decode 0xE0000000000000001#68 = .ok (.commit .animate)

/-- R83: the layout of the response word; on any outcome other than `ok` the count and the data are 0. Every command presented gets
a response (R80). -/
def Obligations.ResponseWordCarriesStatusCountAndData : Prop :=
  (∀ r : Response, r.word.extractLsb' 68 4 = r.status.code ∧ r.word.extractLsb' 64 4 = r.cnt ∧ r.word.extractLsb' 0 64 = r.data) ∧
  (∀ (s s' : State) (w : CommandWord), step (s.presentWord w) = .next s' →
    ∃ r, s'.response = some r ∧ (r.status ≠ .ok → r.cnt = 0 ∧ r.data = 0))

/-- R84, R236: the status codes and the outcome class of each; the status of the command that faults is `0x8 + FCODE`. -/
def Obligations.StatusCodesAreThoseOfTheTable : Prop :=
  (∀ st : Status, (st, st.code, st.outcomeClass) ∈
    [(Status.ok, 0x0#4, OutcomeClass.ok), (.errEmpty, 0x1#4, .reject), (.errFull, 0x2#4, .reject), (.fltCoord, 0x9#4, .fault),
     (.fltIllegal, 0xA#4, .fault), (.fltHalted, 0xF#4, .ignored)]) ∧
  (∀ (s s' : State) (w : CommandWord), s.fault = false → step (s.presentWord w) = .next s' → s'.fault = true →
    (s'.fcode = 1#4 ∨ s'.fcode = 2#4) ∧
    ∃ r, s'.response = some r ∧ r.status.outcomeClass = .fault ∧ r.status.code = 0x8#4 + s'.fcode)

/-! ## Layout -/

/-- R21: the layout of every 64-bit pattern: column 0 is the most significant byte, column 7 the least; `col` and `pack` are
inverse to each other; `COLk` is a slice of `FB`. -/
def Obligations.ColumnsArePackedMostSignificantFirst : Prop :=
  (∀ (S : DisplayState) (k : Fin 8) (i : Nat), i < 8 → (col S k).getLsbD i = S.getLsbD (56 - 8 * k.val + i)) ∧
  (∀ c0 c1 c2 c3 c4 c5 c6 c7 : Column,
    pack c0 c1 c2 c3 c4 c5 c6 c7 = c0 ++ c1 ++ c2 ++ c3 ++ c4 ++ c5 ++ c6 ++ c7 ∧
    split (pack c0 c1 c2 c3 c4 c5 c6 c7) = [c0, c1, c2, c3, c4, c5, c6, c7]) ∧
  (∀ S : DisplayState,
    pack (col S 0) (col S 1) (col S 2) (col S 3) (col S 4) (col S 5) (col S 6) (col S 7) = S) ∧
  (∀ (s : State) (k : Fin 8), s.colReg k = col s.fb k)

/-- R190: `grid(S)`, in whatever order its entries are listed, is the 64 triples of the logical cells with their bit: row `i` of column
`k` is bit `i` of that Column. -/
def Obligations.GridIsTheBitOfEveryCell : Prop :=
  ∀ (S : DisplayState) (order : List Cell), renderOrderWf order = true →
    (grid order S).length = 64 ∧
    (∀ (row k : Fin 8) (b : Bool), ((row, k), b) ∈ grid order S ↔ b = (col S k).getLsbD row.val)

/-! ## Glyph ROM and compositor -/

/-- R110, R112, R113: under every admissible configuration the ROM holds the three known entries, and every code that is not
supported reads the glyph-missing pattern. -/
def Obligations.GlyphRomHoldsTheKnownEntries : Prop :=
  ∀ c : Config, c.admissible = true →
    glyphRom c 0x20 = 0x0000000000000000#64 ∧ glyphRom c 0x41 = 0x3E7EC8C87E3E0000#64 ∧
    glyphRom c 0x42 = 0x6C9292FEFE820000#64 ∧
    (∀ ch, c.font.lookup ch = none → glyphRom c ch = c.glyphMissing)

/-- R115 with R116 items 2 and 3 (the reference ROM): `GLYPH` completes on every code, answers the code's pattern, the box for an
unsupported one, and changes nothing else. -/
def Obligations.GlyphAnswersThePattern : Prop :=
  ∀ (ch : CharCode) (s : State), s.fault = false →
    exec (.glyph ch) s = .next { s with response := some ⟨.ok, 0,
      if ch = 0x20 then 0x0000000000000000#64 else if ch = 0x41 then 0x3E7EC8C87E3E0000#64
      else if ch = 0x42 then 0x6C9292FEFE820000#64 else 0xFF818181818181FF#64⟩ }

/-- R121, R122: `columns_for_char`, for every ROM contents: one zero Column for an all-zero pattern, otherwise exactly the leading
zero Columns are removed; 1 to 8 Columns. -/
def Obligations.LeadingZeroColumnsAreTrimmed : Prop :=
  ∀ (c : Config) (ch : CharCode),
    (glyphRom c ch = 0 → columnsForChar c ch = [0]) ∧
    (glyphRom c ch ≠ 0 → ∃ f : Fin 8,
      (∀ k : Fin 8, k < f → col (glyphRom c ch) k = 0) ∧ col (glyphRom c ch) f ≠ 0 ∧
      columnsForChar c ch = (split (glyphRom c ch)).drop f.val ∧ (columnsForChar c ch).length = 8 - f.val) ∧
    1 ≤ (columnsForChar c ch).length ∧ (columnsForChar c ch).length ≤ 8

/-- R124: `COLS` completes on every code; the count is the number of Columns, the data packs them first-column-first from the most
significant byte with zero bytes after; nothing else changes. -/
def Obligations.ColsAnswersTheTrimmedColumns : Prop :=
  ∀ (ch : CharCode) (s : State), s.fault = false →
    ∃ (cnt : BitVec 4) (data : BitVec 64),
      exec (.cols ch) s = .next { s with response := some ⟨.ok, cnt, data⟩ } ∧
      cnt.toNat = (columnsForChar Config.thisHardware ch).length ∧
      (∀ k : Fin 8, col data k = (columnsForChar Config.thisHardware ch).getD k.val 0)

/-- R123: `columns_for_string` is the characters' Columns in order with exactly one zero spacer between glyphs, none before the
first or after the last. -/
def Obligations.StringColumnsAreSeparatedByOneSpacer : Prop :=
  ∀ (c : Config) (text : List CharCode),
    columnsForString c text = List.intercalate [0] (text.map (columnsForChar c))

/-! ## Coordinate mapper -/

/-- R137: the coordinate table of this hardware, by its two axis tables, for all 64 cells. -/
def Obligations.CoordinateTableIsThatOfTheBoard : Prop :=
  ∀ row k : Fin 8,
    (physical Config.thisHardware (row, k)).x = [0#4, 2, 4, 6, 8, 10, 12, 14].getD k.val 0 ∧
    (physical Config.thisHardware (row, k)).y = [6#3, 5, 4, 3, 2, 1, 0, 7].getD row.val 0

/-- R140, R135: `MAP` completes for indices 0 to 7, answers `x` in bits 15:8 and `y` in bits 7:0, the last row rotated to `y = 7`,
and changes nothing else. -/
def Obligations.MapAnswersThePhysicalAddress : Prop :=
  ∀ (row k : Nat) (s : State), s.fault = false → row ≤ 7 → k ≤ 7 →
    ∃ data : BitVec 64,
      exec (.map row k) s = .next { s with response := some ⟨.ok, 0, data⟩ } ∧
      data.toNat = 256 * (2 * k) + (if row = 7 then 7 else 6 - row)

/-- R139, R222: a coordinate lookup with an index above 7 in either axis is the fault `COORD_RANGE`: the latch is set, no coordinate
is returned, nothing else changes; no other command, and no other operand, raises it. -/
def Obligations.CoordinateOutOfRangeFaults : Prop :=
  (∀ (row k : Nat) (s : State), s.fault = false → 7 < row ∨ 7 < k →
    exec (.map row k) s = .next { s with fault := true, fcode := 1#4, response := some ⟨.fltCoord, 0, 0⟩ } ∧
    exec (.pixel row k) s = .next { s with fault := true, fcode := 1#4, response := some ⟨.fltCoord, 0, 0⟩ }) ∧
  (∀ (i : Instr) (s s' : State), s.fault = false → exec i s = .next s' → s'.fault = true →
    ∃ row k : Nat, (i = .map row k ∨ i = .pixel row k) ∧ (7 < row ∨ 7 < k))

/-! ## Framebuffer and scroll engine -/

/-- R150: `scroll_in` is the 8-bit left shift with the new Column in the low byte. -/
def Obligations.ScrollInIsAShiftByOneColumn : Prop :=
  ∀ (S : DisplayState) (c : Column), scrollIn S c = (S <<< 8) ||| c.setWidth 64

/-- R158, the scroll shift invariant: columns move down by one and the new one enters at 7; eight `scroll_in`s of any columns end in
their `pack`, so feeding back the original eight restores the state. -/
def Obligations.EightScrollsReplaceTheState : Prop :=
  (∀ (S : DisplayState) (c : Column),
    (∀ k : Fin 7, col (scrollIn S c) k.castSucc = col S k.succ) ∧ col (scrollIn S c) 7 = c) ∧
  (∀ (S : DisplayState) (c0 c1 c2 c3 c4 c5 c6 c7 : Column),
    [c0, c1, c2, c3, c4, c5, c6, c7].foldl scrollIn S = pack c0 c1 c2 c3 c4 c5 c6 c7) ∧
  (∀ S : DisplayState, (split S).foldl scrollIn S = S)

/-- R153: `SCROLLIN` completes on every operand: `x[k] <- x[k+1]` for `k` in 0 to 6 and `x[7] <- col8`; the Display Mode, the staging
buffer and all else are untouched. -/
def Obligations.ScrollinShiftsTheFramebuffer : Prop :=
  ∀ (c : Column) (s : State), s.fault = false →
    ∃ s', exec (.scrollin c) s = .next s' ∧
      (∀ k : Fin 7, s'.colReg k.castSucc = s.colReg k.succ) ∧ s'.colReg 7 = c ∧
      s' = { s with fb := s'.fb, response := some ⟨.ok, 0, 0⟩ }

/-- R154: `REPLACE` completes on every operand and adopts the frame; the cursor does not advance and nothing else changes. -/
def Obligations.ReplaceAdoptsTheFrame : Prop :=
  ∀ (f : DisplayState) (s : State), s.fault = false →
    exec (.replace f) s = .next { s with fb := f, response := some ⟨.ok, 0, 0⟩ }

/-- R155, R170, R152: `TICK` completes where the entry at the cursor exists: that entry is shifted in (`Scroll`, its low 8 bits) or
adopted (`Animate`), the cursor advances modulo `LEN`, `wrap` is 1 exactly when it is 0 afterwards, and nothing else changes. -/
def Obligations.TickPlaysTheEntryAtTheCursor : Prop :=
  ∀ (s : State) (e : Entry), s.fault = false → s.cursor.toNat < s.len.toNat → s.seq[s.cursor.toNat]? = some e →
    ∃ s', exec .tick s = .next s' ∧
      (s.tag = .scroll → (∀ k : Fin 7, s'.colReg k.castSucc = s.colReg k.succ) ∧ s'.colReg 7 = e.extractLsb' 0 8) ∧
      (s.tag = .animate → s'.fb = e) ∧
      s'.cursor.toNat = (s.cursor.toNat + 1) % s.len.toNat ∧
      s' = { s with fb := s'.fb, cursor := s'.cursor, response := some ⟨.ok, 0, if s'.cursor = 0 then 1 else 0⟩ }

/-- R53, R59, R227: in a state that keeps the Display Mode's invariant `TICK` always finds its entry; where there is no entry at the
cursor, which the spec says cannot arise, the model stops (log entry 4). -/
def Obligations.TickAlwaysFindsItsEntry : Prop :=
  (∀ s : State, s.fault = false → ModeInv Config.thisHardware s → ∃ s', exec .tick s = .next s') ∧
  (∀ s : State, s.fault = false → s.len.toNat ≤ s.cursor.toNat ∨ s.seq.length ≤ s.cursor.toNat →
    exec .tick s = .fault .seqIndexOutOfRange)

/-- R156: a sequence of length 1 is valid: however often it is ticked, every `TICK` is `ok`, the cursor stays 0 and every answer has
`wrap = 1`; an `Animate` framebuffer holds the frame from the first tick on, a `Scroll` framebuffer the column eight times from the
eighth. -/
def Obligations.LengthOneSequenceRepeats : Prop :=
  ∀ (s : State) (e : Entry) (n : Nat), s.fault = false → s.len = 1 → s.seq = [e] → s.cursor = 0 →
    ∃ t rs, runOk Config.thisHardware (List.replicate n .tick) s = some (t, rs) ∧
      t.cursor = 0 ∧ rs = List.replicate n ⟨.ok, 0, 1⟩ ∧
      (s.tag = .animate → 1 ≤ n → t.fb = e) ∧
      (s.tag = .scroll → 8 ≤ n → ∀ k : Fin 8, t.colReg k = e.extractLsb' 0 8)

/-- R157 (the spec marks it as derived from R152): the state after `n` ticks of a sequence of length `N` started at cursor 0. -/
def Obligations.StateAfterTicks : Prop :=
  ∀ (s : State) (n : Nat), s.fault = false → s.cursor = 0 → 1 ≤ s.len.toNat → s.seq.length = s.len.toNat →
    ∃ t rs, runOk Config.thisHardware (List.replicate n .tick) s = some (t, rs) ∧
      t.cursor.toNat = n % s.len.toNat ∧
      (s.tag = .animate → (n = 0 → t.fb = s.fb) ∧ (1 ≤ n → s.seq[(n - 1) % s.len.toNat]? = some t.fb)) ∧
      (s.tag = .scroll → ∀ k : Fin 8,
        (∀ h : k.val + n < 8, t.colReg k = s.colReg ⟨k.val + n, h⟩) ∧
        (8 ≤ k.val + n → (s.seq[(k.val + n - 8) % s.len.toNat]?).map columnOfEntry = some (t.colReg k))) ∧
      t = { s with fb := t.fb, cursor := t.cursor, response := t.response }

/-- R157, 90_conflicts.md C3: the periodicity that holds: the framebuffer and the cursor after `n + N` ticks are those after `n`, for
`n >= 1` in `Animate` and `n >= 8` in `Scroll`. -/
def Obligations.DisplayIsPeriodicOnceFilled : Prop :=
  ∀ (s : State) (n : Nat), s.fault = false → s.cursor = 0 → 1 ≤ s.len.toNat → s.seq.length = s.len.toNat →
    (s.tag = .animate → 1 ≤ n) → (s.tag = .scroll → 8 ≤ n) →
    ∃ t rs u us, runOk Config.thisHardware (List.replicate n .tick) s = some (t, rs) ∧
      runOk Config.thisHardware (List.replicate (n + s.len.toNat) .tick) s = some (u, us) ∧
      u.fb = t.fb ∧ u.cursor = t.cursor

/-! ## Building and installing a Display Mode -/

/-- R159: `STGCLR` completes and empties the staging buffer; nothing else changes. -/
def Obligations.StgclrEmptiesTheStagingBuffer : Prop :=
  ∀ s : State, s.fault = false →
    exec .stgclr s = .next { s with stg := [], stgLen := 0, stgGlyph := false, response := some ⟨.ok, 0, 0⟩ }

/-- R160, R161: `STGCOL` and `STGFRM` complete where one more entry fits: the entry is appended (a Column zero-extended), `STG_LEN`
grows by one, `STG_GLYPH` is cleared, the answer carries the new length; the entries before it and all else are unchanged. The capacity
256 is R6's `SEQ_MAX` for this hardware (log entry 12). -/
def Obligations.StgcolAndStgfrmAppendOneEntry : Prop :=
  ∀ (i : Instr) (v : Entry) (s : State), s.fault = false → s.stgLen.toNat + 1 ≤ 256 →
    ((∃ c : Column, i = .stgcol c ∧ v.toNat = c.toNat) ∨ i = .stgfrm v) →
    ∃ s', exec i s = .next s' ∧ s'.stgLen.toNat = s.stgLen.toNat + 1 ∧
      s' = { s with stg := s.stg ++ [v], stgLen := s'.stgLen, stgGlyph := false,
                    response := some ⟨.ok, 1, s'.stgLen.setWidth 64⟩ }

/-- R125: `STGCHAR` completes where its entries fit: a zero spacer when `STG_GLYPH` is 1, then the character's Columns, each
zero-extended; `STG_LEN` grows by their number, `STG_GLYPH` is set, the answer carries the number and the new length; all else is
unchanged. The capacity 256 is R6's `SEQ_MAX` for this hardware (log entry 12). -/
def Obligations.StgcharAppendsTheCharacter : Prop :=
  ∀ (ch : CharCode) (s : State) (new : List Column), s.fault = false →
    new = (if s.stgGlyph then [0] else []) ++ columnsForChar Config.thisHardware ch →
    s.stgLen.toNat + new.length ≤ 256 →
    ∃ (s' : State) (cnt : BitVec 4), exec (.stgchar ch) s = .next s' ∧
      s'.stgLen.toNat = s.stgLen.toNat + new.length ∧ cnt.toNat = new.length ∧
      s' = { s with stg := s.stg ++ new.map (fun c => c.setWidth 64), stgLen := s'.stgLen, stgGlyph := true,
                    response := some ⟨.ok, cnt, s'.stgLen.setWidth 64⟩ }

/-- R228: an append that does not fit is rejected whole with `ERR_FULL`: no state changes. That it begins above 256 entries is R6's
`SEQ_MAX` for this hardware (log entry 12). -/
def Obligations.AppendThatDoesNotFitIsRejectedWhole : Prop :=
  ∀ s : State, s.fault = false →
    (∀ c : Column, 256 < s.stgLen.toNat + 1 → exec (.stgcol c) s = .next { s with response := some ⟨.errFull, 0, 0⟩ }) ∧
    (∀ f : DisplayState, 256 < s.stgLen.toNat + 1 → exec (.stgfrm f) s = .next { s with response := some ⟨.errFull, 0, 0⟩ }) ∧
    (∀ ch : CharCode,
      256 < s.stgLen.toNat + ((if s.stgGlyph then 1 else 0) + (columnsForChar Config.thisHardware ch).length) →
      exec (.stgchar ch) s = .next { s with response := some ⟨.errFull, 0, 0⟩ })

/-- R162, R163: `COMMIT` of a non-empty staging buffer completes: tag, length, sequence and cursor are replaced and the staging
buffer is emptied in one step; `FB` is not written and all else is unchanged. -/
def Obligations.CommitInstallsTheStagingBuffer : Prop :=
  ∀ (tag : ModeTag) (s : State), s.fault = false → s.stgLen ≠ 0 →
    exec (.commit tag) s = .next { s with
      tag := tag, len := s.stgLen, seq := s.stg, cursor := 0, stg := [], stgLen := 0, stgGlyph := false,
      response := some ⟨.ok, 0, s.stgLen.setWidth 64⟩ }

/-- R227: `COMMIT` of an empty staging buffer is rejected with `ERR_EMPTY`: no state changes. -/
def Obligations.CommitOfAnEmptyBufferIsRejected : Prop :=
  ∀ (tag : ModeTag) (s : State), s.fault = false → s.stgLen = 0 →
    exec (.commit tag) s = .next { s with response := some ⟨.errEmpty, 0, 0⟩ }

/-- R68: the first `TICK` after a successful `COMMIT` consumes entry 0 of the new sequence, on the picture as it was. -/
def Obligations.FirstTickAfterCommitPlaysEntryZero : Prop :=
  ∀ (tag : ModeTag) (s : State) (e : Entry) (more : List Entry), s.fault = false → s.stg = e :: more →
    s.stgLen.toNat = s.stg.length →
    ∃ t rs, runOk Config.thisHardware [.commit tag, .tick] s = some (t, rs) ∧
      t.fb = (match tag with | .scroll => scrollIn s.fb (e.extractLsb' 0 8) | .animate => e) ∧
      t.cursor.toNat = 1 % s.stg.length ∧ t.seq = e :: more

/-- R68: staging is never seen by the display: taking every staging command out of a sequence of commands without `COMMIT` leaves
the framebuffer and the Display Mode that the sequence ends in unchanged. -/
def Obligations.StagingIsInvisibleUntilCommit : Prop :=
  ∀ (is : List Instr) (s t : State) (rs : List Response),
    (∀ i ∈ is, i.mnemonic ≠ "COMMIT") → runOk Config.thisHardware is s = some (t, rs) →
    ∃ u us,
      runOk Config.thisHardware
        (is.filter fun i => !(["STGCLR", "STGCOL", "STGFRM", "STGCHAR"].contains i.mnemonic)) s = some (u, us) ∧
      u.fb = t.fb ∧ u.tag = t.tag ∧ u.len = t.len ∧ u.seq = t.seq ∧ u.cursor = t.cursor

/-- R126 (the spec marks it as derived): under every admissible configuration, `STGCLR` and then one `STGCHAR` per character, where
the columns fit, are all `ok` and leave exactly `columns_for_string(text)` in the staging buffer, each Column zero-extended. -/
def Obligations.StagingATextBuildsItsColumns : Prop :=
  ∀ (c : Config) (text : List CharCode) (s : State), c.admissible = true → s.fault = false →
    (columnsForString c text).length ≤ c.seqMax →
    ∃ t rs, runOk c (Instr.stgclr :: text.map Instr.stgchar) s = some (t, rs) ∧
      t.stg = (columnsForString c text).map (fun col8 => col8.setWidth 64) ∧
      t.stgLen.toNat = (columnsForString c text).length

/-! ## Observation and the pixel mux -/

/-- R164: `RDFB` completes and answers `FB`; nothing else changes. -/
def Obligations.RdfbAnswersTheFramebuffer : Prop :=
  ∀ s : State, s.fault = false → exec .rdfb s = .next { s with response := some ⟨.ok, 0, s.fb⟩ }

/-- R165: `RDSTAT` completes and answers the packed status; nothing else changes. -/
def Obligations.RdstatAnswersTheStatusWord : Prop :=
  ∀ s : State, s.fault = false →
    ∃ d : BitVec 64, exec .rdstat s = .next { s with response := some ⟨.ok, 0, d⟩ } ∧
      d.extractLsb' 0 16 = s.cursor ∧ d.extractLsb' 16 16 = s.len ∧ d.extractLsb' 32 16 = s.stgLen ∧
      (d.getLsbD 48 = true ↔ s.tag = .animate) ∧ d.getLsbD 49 = s.stgGlyph ∧ d.extractLsb' 50 14 = 0

/-- R194: `PIXEL` completes for indices 0 to 7: `on` is bit `row` of column register `COLcol`, in bit 16; the physical address stands in
bits 15:8 and 7:0; nothing else changes. -/
def Obligations.PixelAnswersOneRenderEntry : Prop :=
  ∀ (row k : Fin 8) (s : State), s.fault = false →
    ∃ d : BitVec 64, exec (.pixel row.val k.val) s = .next { s with response := some ⟨.ok, 0, d⟩ } ∧
      d.getLsbD 16 = (s.colReg k).getLsbD row.val ∧
      d.extractLsb' 8 8 = BitVec.ofNat 8 (2 * k.val) ∧
      d.extractLsb' 0 8 = BitVec.ofNat 8 (if row.val = 7 then 7 else 6 - row.val) ∧
      d.extractLsb' 17 47 = 0

/-- R191, R192: under every admissible configuration and in every order, a render has exactly 64 entries, their physical addresses are
pairwise distinct and are the coordinate table's image, and each entry carries its cell's bit. -/
def Obligations.RenderCoversEveryWiredAddressOnce : Prop :=
  ∀ (c : Config) (order : List Cell) (S : DisplayState), c.admissible = true → renderOrderWf order = true →
    (render c order S).length = 64 ∧ ((render c order S).map Prod.fst).Nodup ∧
    (∀ a : PhysAddr, a ∈ (render c order S).map Prod.fst ↔ ∃ cell : Cell, physical c cell = a) ∧
    (∀ cell : Cell, (physical c cell, on S cell) ∈ render c order S)

/-- R192, R141 (derived there): for the table of this hardware exactly the addresses with even `x` are wired, the inverse of the table
is the one R141 writes, and the LED at `(x, y)` is bit `56 - 8*col + row` of the framebuffer. -/
def Obligations.LedAtAPhysicalAddress : Prop :=
  ∀ (S : DisplayState) (a : PhysAddr),
    (wired a = true →
      physical Config.thisHardware (inverseCell a) = a ∧
      led Config.thisHardware S a =
        some (S.getLsbD (56 - 8 * (a.x.toNat / 2) + (if a.y.toNat = 7 then 7 else 6 - a.y.toNat)))) ∧
    (wired a = false → led Config.thisHardware S a = none)

/-- R195, R193, R197: `RENDER`, in any order, is 64 `PIXEL`s that are all `ok`, change no state, and whose answers are the entries of
`render(FB)`. -/
def Obligations.RenderCommandsAnswerTheRender : Prop :=
  ∀ (order : List Cell) (s : State), renderOrderWf order = true → s.fault = false →
    ∃ t rs, runOk Config.thisHardware (Pseudo.expand (.render order)) s = some (t, rs) ∧
      SameBlock s t ∧ rs.map entryOfResponse = render Config.thisHardware order s.fb

/-- R196, R205, R207 (R196 is derived there): after one push of a render in any order, whatever the controller held, every wired cell
shows its LED and every other cell is off; and one whole tick of the owner, from a running block with a legal Display Mode, goes through
and leaves the display showing the framebuffer as the `TICK` left it. What is shown before the commit is left open (log entry 9); that
the owner and the controller are functions beside the block is the model's choice (log entry 18). -/
def Obligations.PushedPictureIsTheFramebuffer : Prop :=
  (∀ (order : List Cell) (S : DisplayState) (k : Controller) (a : PhysAddr), renderOrderWf order = true →
    ∃ written, ((pushOps (render Config.thisHardware order S)).foldl Controller.apply k).shown = some written ∧
      cellLit written a = (led Config.thisHardware S a).getD false) ∧
  (∀ (choice : OwnerChoice) (b : Board), renderOrderWf choice.order = true → b.block.fault = false →
    ModeInv Config.thisHardware b.block →
    ∃ t b' done written, exec .tick b.block = .next t ∧ ownerTick Config.thisHardware choice b = some (b', done) ∧
      SameBlock t b'.block ∧ b'.controller.shown = some written ∧
      ∀ a : PhysAddr, cellLit written a = (led Config.thisHardware t.fb a).getD false)

/-! ## The authoring path -/

/-- R212, R210, R211: the conversion pair are exact inverses on 64 binary digits, in both directions. -/
def Obligations.BinaryStringRoundTrip : Prop :=
  (∀ V : BitVec 64, (u64ToBinaryString V).length = 64 ∧ binaryStringToU64 (u64ToBinaryString V) = some V) ∧
  (∀ s : List Char, (binaryStringToU64 s).map u64ToBinaryString = some s ↔
    s.length = 64 ∧ ∀ ch ∈ s, ch = '0' ∨ ch = '1')

/-! ## Faults, rejects and the halted state -/

/-- R94, R223, R224: a command word that no row of the opcode map claims is the fault `ILLEGAL_CMD`: the latch is set with code 2, the
answer is `0xA`, every other piece of state keeps its value. -/
def Obligations.IllegalCommandWordFaults : Prop :=
  ∀ (s : State) (w : CommandWord) (rest : List PortInput), s.fault = false →
    s.inputs = ⟨false, some w⟩ :: rest → (∀ row ∈ opcodeMap, row.claims w = false) →
    step s = .next { s with inputs := rest, fault := true, fcode := 2#4, response := some ⟨.fltIllegal, 0, 0⟩ }

/-- R225: while `FAULT = 1` every command, legal or not, is ignored: no state changes and the answer is `FLT_HALTED`. -/
def Obligations.HaltedBlockIgnoresEveryCommand : Prop :=
  ∀ (s : State) (w : CommandWord) (rest : List PortInput), s.fault = true → s.inputs = ⟨false, some w⟩ :: rest →
    step s = .next { s with inputs := rest, response := some ⟨.fltHalted, 0, 0⟩ }

/-- R226: only reset clears `FAULT` and `FCODE`, and it puts every other piece of state at its reset value too; in every other step of
a halted block the latch and its code stay, so no second fault is raised. -/
def Obligations.OnlyResetLeavesTheHaltedState : Prop :=
  ∀ s s' : State, s.fault = true → step s = .next s' →
    (∃ p rest, s.inputs = p :: rest ∧ p.rst = true ∧ SameBlock State.reset s') ∨
    (s'.fault = true ∧ s'.fcode = s.fcode)

/-- R230: the order of the checks. With `rst` the command is not performed at all; otherwise the status of the answer to any command
word, in any state that keeps the Display Mode's invariant, is that of the first check that applies. That `ERR_FULL` begins above 256
entries is R6's `SEQ_MAX` for this hardware (log entry 12). -/
def Obligations.ChecksAreMadeInOrder : Prop :=
  (∀ (s : State) (w : CommandWord) (rest : List PortInput), s.inputs = ⟨true, some w⟩ :: rest →
    ∃ s', step s = .next s' ∧ SameBlock State.reset s') ∧
  ∀ (s : State) (w : CommandWord), ModeInv Config.thisHardware s →
    ∃ s' r, step (s.presentWord w) = .next s' ∧ s'.response = some r ∧
      r.status =
        (if s.fault then .fltHalted
         else match decode w with
          | .error _ => .fltIllegal
          | .ok (.map row k) => if 7 < row ∨ 7 < k then .fltCoord else .ok
          | .ok (.pixel row k) => if 7 < row ∨ 7 < k then .fltCoord else .ok
          | .ok (.commit _) => if s.stgLen = 0 then .errEmpty else .ok
          | .ok (.stgcol _) => if 256 < s.stgLen.toNat + 1 then .errFull else .ok
          | .ok (.stgfrm _) => if 256 < s.stgLen.toNat + 1 then .errFull else .ok
          | .ok (.stgchar ch) =>
            if 256 < s.stgLen.toNat + ((if s.stgGlyph then 1 else 0) + (columnsForChar Config.thisHardware ch).length)
            then .errFull else .ok
          | .ok _ => .ok)

/-- R231: a command whose outcome is not `ok` has no partial effect: a rejected or ignored one changes nothing, a faulting one only
`FAULT` and `FCODE`; in all three cases the answer's count and data are 0. -/
def Obligations.FailingCommandsHaveNoPartialEffect : Prop :=
  ∀ (s s' : State) (w : CommandWord) (r : Response), step (s.presentWord w) = .next s' → s'.response = some r →
    (r.status.outcomeClass = .reject ∨ r.status.outcomeClass = .ignored → s' = { s with response := some r }) ∧
    (r.status.outcomeClass = .fault → s' = { s with fault := true, fcode := s'.fcode, response := some r }) ∧
    (r.status.outcomeClass ≠ .ok → r.cnt = 0 ∧ r.data = 0)

/-! ## Whole-machine rules -/

/-- R34: who writes what: a command not named for a piece of state never changes it; the latch changes only with a fault outcome.
The last clause is about the model's own field and says nothing of the hardware: no command touches the list of the coming inputs (log
entry 1). -/
def Obligations.OnlyTheNamedCommandsWriteEachPiece : Prop :=
  ∀ (i : Instr) (s s' : State), exec i s = .next s' →
    (s'.fb ≠ s.fb → i.mnemonic ∈ ["SCROLLIN", "REPLACE", "TICK"]) ∧
    (s'.tag ≠ s.tag ∨ s'.len ≠ s.len ∨ s'.seq ≠ s.seq → i.mnemonic = "COMMIT") ∧
    (s'.cursor ≠ s.cursor → i.mnemonic ∈ ["TICK", "COMMIT"]) ∧
    (s'.stg ≠ s.stg ∨ s'.stgLen ≠ s.stgLen ∨ s'.stgGlyph ≠ s.stgGlyph →
      i.mnemonic ∈ ["STGCLR", "STGCOL", "STGFRM", "STGCHAR", "COMMIT"]) ∧
    (s'.fault ≠ s.fault ∨ s'.fcode ≠ s.fcode →
      s'.fault = true ∧ ∃ r, s'.response = some r ∧ r.status.outcomeClass = .fault) ∧
    s'.inputs = s.inputs

/-- R35: the framebuffer changes only by `scroll_in` and `replace`, reached by `SCROLLIN`, `REPLACE` and `TICK`, and by reset. -/
def Obligations.FramebufferChangesOnlyByScrollOrReplace : Prop :=
  ∀ s s' : State, step s = .next s' → s'.fb ≠ s.fb →
    ∃ p rest, s.inputs = p :: rest ∧
      ((p.rst = true ∧ s'.fb = 0) ∨
       (p.rst = false ∧ ∃ w, p.cw = some w ∧
        ((∃ c, decode w = .ok (.scrollin c) ∧ s'.fb = scrollIn s.fb c) ∨
         (∃ f, decode w = .ok (.replace f) ∧ s'.fb = f) ∨
         (decode w = .ok .tick ∧ ∃ e, s.seq[s.cursor.toNat]? = some e ∧
          s'.fb = (match s.tag with | .scroll => scrollIn s.fb (e.extractLsb' 0 8) | .animate => e)))))

/-- R61, R197: the reading commands change no state when their outcome is `ok`, and in every state in which the block's own state is the
same, whatever was read or answered in between, they answer the same. -/
def Obligations.ReadsArePureAndRepeatable : Prop :=
  ∀ (i : Instr) (s s' : State) (r : Response), i.mnemonic ∈ ["GLYPH", "COLS", "MAP", "PIXEL", "RDFB", "RDSTAT"] →
    exec i s = .next s' → s'.response = some r → r.status = .ok →
    s' = { s with response := some r } ∧ ∀ t : State, SameBlock s t → exec i t = .next { t with response := some r }

/-- R26 with R27 to R29, R83, R84: the invariant of the block holds at reset. -/
def Obligations.InvariantHoldsAtReset : Prop := Inv State.reset

/-- R26 with R27 to R29, R83, R84: every step keeps the invariant: `1 <= LEN <= SEQ_MAX`, `CURSOR < LEN`, `SEQ` and `STG` of exactly
their lengths, the latch and its code in step, no data without `OK`. -/
def Obligations.EveryStepKeepsTheInvariant : Prop :=
  ∀ s s' : State, Inv s → step s = .next s' → Inv s'

/-- R6, R26, R116, R254: under every admissible configuration the block never gets stuck and keeps its invariant: reset has it, and from
every state that has it a step answers a next state that has it, so every finite run from reset goes through. -/
def Obligations.EveryAdmissibleConfigurationRunsForever : Prop :=
  ∀ c : Config, c.admissible = true →
    InvIn c (State.resetIn c) ∧ ∀ s : State, InvIn c s → ∃ s', stepIn c s = .next s' ∧ InvIn c s'
end

