-- ==== Sys2Proof/Laws/Bits.lean ====
section
/-! SUPPORT. Every packed word bit by bit: one lemma per layout function, so that no proof unfolds a layout. -/

namespace Sys2Proof

theorem commandWord_getLsbD (op : BitVec 4) (arg : BitVec 64) (i : Nat) :
    (commandWord op arg).getLsbD i = if i < 64 then arg.getLsbD i else op.getLsbD (i - 64) :=
  BitVec.getLsbD_append (x := op) (y := arg)

@[simp] theorem opField_commandWord (op : BitVec 4) (arg : BitVec 64) : opField (commandWord op arg) = op := by
  apply BitVec.eq_of_getLsbD_eq
  intro i hi
  simp [opField, commandWord_getLsbD, hi]

@[simp] theorem argField_commandWord (op : BitVec 4) (arg : BitVec 64) : argField (commandWord op arg) = arg := by
  apply BitVec.eq_of_getLsbD_eq
  intro i hi
  simp [argField, commandWord_getLsbD, hi]

/-- A command word is its two fields (R81). -/
theorem commandWord_fields (w : CommandWord) : commandWord (opField w) (argField w) = w := by
  apply BitVec.eq_of_getLsbD_eq
  intro i hi
  rw [commandWord_getLsbD]
  by_cases h : i < 64
  · simp [argField, h]
  · have h4 : i - 64 < 4 := by omega
    simp [opField, h, h4, show 64 + (i - 64) = i by omega]

theorem argOfIndices_getLsbD (row col i : Nat) :
    (argOfIndices row col).getLsbD i =
      (decide (i < 64) && if i < 8 then (BitVec.ofNat 8 col).getLsbD i else (BitVec.ofNat 8 row).getLsbD (i - 8)) := by
  unfold argOfIndices
  rw [BitVec.getLsbD_setWidth]
  congr 1
  exact BitVec.getLsbD_append

/-! The operand fields of an encoded word. -/

theorem argOfByte_getLsbD (b : BitVec 8) (i : Nat) : (argOfByte b).getLsbD i = b.getLsbD i := by
  rw [argOfByte, BitVec.getLsbD_setWidth]
  by_cases h : i < 64
  · simp [h]
  · simp [h, BitVec.getLsbD_of_ge b i (by omega)]

theorem argOfByte_reserved (b : BitVec 8) : argOfByte b >>> 8 = 0 := by
  apply BitVec.eq_of_getLsbD_eq
  intro i _
  rw [BitVec.getLsbD_ushiftRight, argOfByte_getLsbD]
  simp

theorem lowByte_argOfByte (b : BitVec 8) : lowByte (argOfByte b) = b := by
  apply BitVec.eq_of_getLsbD_eq
  intro i hi
  simp [lowByte, argOfByte_getLsbD, hi]

theorem argOfIndices_reserved (row col : Nat) : argOfIndices row col >>> 16 = 0 := by
  apply BitVec.eq_of_getLsbD_eq
  intro i _
  rw [BitVec.getLsbD_ushiftRight, argOfIndices_getLsbD, BitVec.getLsbD_of_ge (BitVec.ofNat 8 row) _ (by omega)]
  simp [show ¬ 16 + i < 8 by omega]

theorem lowByte_argOfIndices (row col : Nat) : lowByte (argOfIndices row col) = BitVec.ofNat 8 col := by
  apply BitVec.eq_of_getLsbD_eq
  intro i hi
  rw [lowByte, BitVec.getLsbD_extractLsb', argOfIndices_getLsbD]
  simp [hi, show i < 64 by omega]

theorem rowField_argOfIndices (row col : Nat) : rowField (argOfIndices row col) = BitVec.ofNat 8 row := by
  apply BitVec.eq_of_getLsbD_eq
  intro i hi
  rw [rowField, BitVec.getLsbD_extractLsb', argOfIndices_getLsbD]
  simp [hi, show 8 + i < 64 by omega]

end Sys2Proof

namespace Sys2Proof.Machine

theorem col_getLsbD (S : DisplayState) (k : Fin 8) (i : Nat) :
    (col S k).getLsbD i = (decide (i < 8) && S.getLsbD (56 - 8 * k.val + i)) := by
  simp [col]

theorem pack_getLsbD (c0 c1 c2 c3 c4 c5 c6 c7 : Column) (i : Nat) :
    (pack c0 c1 c2 c3 c4 c5 c6 c7).getLsbD i =
      if i < 8 then c7.getLsbD i else if i < 16 then c6.getLsbD (i - 8) else if i < 24 then c5.getLsbD (i - 16)
      else if i < 32 then c4.getLsbD (i - 24) else if i < 40 then c3.getLsbD (i - 32)
      else if i < 48 then c2.getLsbD (i - 40) else if i < 56 then c1.getLsbD (i - 48) else c0.getLsbD (i - 56) := by
  refine (BitVec.getLsbD_append (x := c0 ++ c1 ++ c2 ++ c3 ++ c4 ++ c5 ++ c6) (y := c7)).trans ?_
  simp only [BitVec.getLsbD_append]
  simp only [Nat.sub_sub, Nat.reduceAdd]
  split_ifs <;> first | rfl | omega

theorem Response.word_getLsbD (r : Response) (i : Nat) :
    r.word.getLsbD i =
      if i < 64 then r.data.getLsbD i else if i < 68 then r.cnt.getLsbD (i - 64) else r.status.code.getLsbD (i - 68) := by
  refine (BitVec.getLsbD_append (x := r.status.code ++ r.cnt) (y := r.data)).trans ?_
  simp only [BitVec.getLsbD_append]
  simp only [Nat.sub_sub, Nat.reduceAdd]
  split_ifs <;> first | rfl | omega

theorem coordData_getLsbD (a : PhysAddr) (i : Nat) :
    (coordData a).getLsbD i = if i < 8 then a.y.getLsbD i else if i < 16 then a.x.getLsbD (i - 8) else false := by
  unfold coordData
  rw [BitVec.getLsbD_setWidth, BitVec.getLsbD_append (x := a.x.setWidth 8) (y := a.y.setWidth 8)]
  simp only [BitVec.getLsbD_setWidth]
  by_cases h8 : i < 8
  · simp [h8, show i < 64 by omega]
  · by_cases h16 : i < 16
    · simp [h8, h16, show i < 64 by omega, show i - 8 < 8 by omega]
    · simp [h8, h16, show ¬ i - 8 < 8 by omega]

theorem pixelData_getLsbD (lit : Bool) (a : PhysAddr) (i : Nat) :
    (pixelData lit a).getLsbD i =
      if i < 8 then a.y.getLsbD i else if i < 16 then a.x.getLsbD (i - 8) else (decide (i = 16) && lit) := by
  unfold pixelData
  rw [BitVec.getLsbD_setWidth, BitVec.getLsbD_append (x := BitVec.ofBool lit ++ a.x.setWidth 8) (y := a.y.setWidth 8),
    BitVec.getLsbD_append]
  simp only [BitVec.getLsbD_setWidth, Nat.sub_sub, Nat.reduceAdd, BitVec.getLsbD_ofBool]
  by_cases h8 : i < 8
  · simp [h8, show i < 64 by omega]
  · by_cases h16 : i < 16
    · simp [h8, h16, show i < 64 by omega, show i - 8 < 8 by omega]
    · by_cases h17 : i = 16
      · simp [h17]
      · simp [h8, h16, h17, show ¬ i - 8 < 8 by omega, show ¬ i - 16 = 0 by omega]

theorem statusWord_getLsbD (s : State) (i : Nat) :
    (statusWord s).getLsbD i =
      if i < 16 then s.cursor.getLsbD i else if i < 32 then s.len.getLsbD (i - 16) else if i < 48 then s.stgLen.getLsbD (i - 32)
      else if i < 49 then (tagBit s.tag).getLsbD 0 else if i < 50 then s.stgGlyph else false := by
  refine (BitVec.getLsbD_append (x := 0#14 ++ BitVec.ofBool s.stgGlyph ++ tagBit s.tag ++ s.stgLen ++ s.len)
    (y := s.cursor)).trans ?_
  simp only [BitVec.getLsbD_append]
  simp only [Nat.sub_sub, Nat.reduceAdd]
  split_ifs
  all_goals first
    | rfl
    | omega
    | simp [show i = 48 by omega]
    | simp [show i = 49 by omega]
    | simp

end Sys2Proof.Machine
end

