-- ==== Sys2Proof/Laws/State.lean ====
section
/-! SUPPORT. One lemma per field of State for each named update of a state: what the field reads after it. -/

namespace Sys2Proof.Machine

/-! `respondOk` -/

@[simp] theorem respondOk_fb (cnt : BitVec 4) (data : BitVec 64) (s : State) :
    (respondOk cnt data s).fb = s.fb := rfl
@[simp] theorem respondOk_tag (cnt : BitVec 4) (data : BitVec 64) (s : State) :
    (respondOk cnt data s).tag = s.tag := rfl
@[simp] theorem respondOk_len (cnt : BitVec 4) (data : BitVec 64) (s : State) :
    (respondOk cnt data s).len = s.len := rfl
@[simp] theorem respondOk_seq (cnt : BitVec 4) (data : BitVec 64) (s : State) :
    (respondOk cnt data s).seq = s.seq := rfl
@[simp] theorem respondOk_cursor (cnt : BitVec 4) (data : BitVec 64) (s : State) :
    (respondOk cnt data s).cursor = s.cursor := rfl
@[simp] theorem respondOk_stg (cnt : BitVec 4) (data : BitVec 64) (s : State) :
    (respondOk cnt data s).stg = s.stg := rfl
@[simp] theorem respondOk_stgLen (cnt : BitVec 4) (data : BitVec 64) (s : State) :
    (respondOk cnt data s).stgLen = s.stgLen := rfl
@[simp] theorem respondOk_stgGlyph (cnt : BitVec 4) (data : BitVec 64) (s : State) :
    (respondOk cnt data s).stgGlyph = s.stgGlyph := rfl
@[simp] theorem respondOk_fault (cnt : BitVec 4) (data : BitVec 64) (s : State) :
    (respondOk cnt data s).fault = s.fault := rfl
@[simp] theorem respondOk_fcode (cnt : BitVec 4) (data : BitVec 64) (s : State) :
    (respondOk cnt data s).fcode = s.fcode := rfl
@[simp] theorem respondOk_response (cnt : BitVec 4) (data : BitVec 64) (s : State) :
    (respondOk cnt data s).response = some { status := .ok, cnt := cnt, data := data } := rfl
@[simp] theorem respondOk_inputs (cnt : BitVec 4) (data : BitVec 64) (s : State) :
    (respondOk cnt data s).inputs = s.inputs := rfl

/-! `reject` -/

@[simp] theorem reject_fb (st : Status) (s : State) :
    (reject st s).fb = s.fb := rfl
@[simp] theorem reject_tag (st : Status) (s : State) :
    (reject st s).tag = s.tag := rfl
@[simp] theorem reject_len (st : Status) (s : State) :
    (reject st s).len = s.len := rfl
@[simp] theorem reject_seq (st : Status) (s : State) :
    (reject st s).seq = s.seq := rfl
@[simp] theorem reject_cursor (st : Status) (s : State) :
    (reject st s).cursor = s.cursor := rfl
@[simp] theorem reject_stg (st : Status) (s : State) :
    (reject st s).stg = s.stg := rfl
@[simp] theorem reject_stgLen (st : Status) (s : State) :
    (reject st s).stgLen = s.stgLen := rfl
@[simp] theorem reject_stgGlyph (st : Status) (s : State) :
    (reject st s).stgGlyph = s.stgGlyph := rfl
@[simp] theorem reject_fault (st : Status) (s : State) :
    (reject st s).fault = s.fault := rfl
@[simp] theorem reject_fcode (st : Status) (s : State) :
    (reject st s).fcode = s.fcode := rfl
@[simp] theorem reject_response (st : Status) (s : State) :
    (reject st s).response = some (.bare st) := rfl
@[simp] theorem reject_inputs (st : Status) (s : State) :
    (reject st s).inputs = s.inputs := rfl

/-! `raiseFault` -/

@[simp] theorem raiseFault_fb (c : Cause) (s : State) :
    (raiseFault c s).fb = s.fb := rfl
@[simp] theorem raiseFault_tag (c : Cause) (s : State) :
    (raiseFault c s).tag = s.tag := rfl
@[simp] theorem raiseFault_len (c : Cause) (s : State) :
    (raiseFault c s).len = s.len := rfl
@[simp] theorem raiseFault_seq (c : Cause) (s : State) :
    (raiseFault c s).seq = s.seq := rfl
@[simp] theorem raiseFault_cursor (c : Cause) (s : State) :
    (raiseFault c s).cursor = s.cursor := rfl
@[simp] theorem raiseFault_stg (c : Cause) (s : State) :
    (raiseFault c s).stg = s.stg := rfl
@[simp] theorem raiseFault_stgLen (c : Cause) (s : State) :
    (raiseFault c s).stgLen = s.stgLen := rfl
@[simp] theorem raiseFault_stgGlyph (c : Cause) (s : State) :
    (raiseFault c s).stgGlyph = s.stgGlyph := rfl
@[simp] theorem raiseFault_fault (c : Cause) (s : State) :
    (raiseFault c s).fault = true := rfl
@[simp] theorem raiseFault_fcode (c : Cause) (s : State) :
    (raiseFault c s).fcode = c.fcode := rfl
@[simp] theorem raiseFault_response (c : Cause) (s : State) :
    (raiseFault c s).response = some (.bare c.status) := rfl
@[simp] theorem raiseFault_inputs (c : Cause) (s : State) :
    (raiseFault c s).inputs = s.inputs := rfl

/-! `ignoreHalted` -/

@[simp] theorem ignoreHalted_fb (s : State) :
    (ignoreHalted s).fb = s.fb := rfl
@[simp] theorem ignoreHalted_tag (s : State) :
    (ignoreHalted s).tag = s.tag := rfl
@[simp] theorem ignoreHalted_len (s : State) :
    (ignoreHalted s).len = s.len := rfl
@[simp] theorem ignoreHalted_seq (s : State) :
    (ignoreHalted s).seq = s.seq := rfl
@[simp] theorem ignoreHalted_cursor (s : State) :
    (ignoreHalted s).cursor = s.cursor := rfl
@[simp] theorem ignoreHalted_stg (s : State) :
    (ignoreHalted s).stg = s.stg := rfl
@[simp] theorem ignoreHalted_stgLen (s : State) :
    (ignoreHalted s).stgLen = s.stgLen := rfl
@[simp] theorem ignoreHalted_stgGlyph (s : State) :
    (ignoreHalted s).stgGlyph = s.stgGlyph := rfl
@[simp] theorem ignoreHalted_fault (s : State) :
    (ignoreHalted s).fault = s.fault := rfl
@[simp] theorem ignoreHalted_fcode (s : State) :
    (ignoreHalted s).fcode = s.fcode := rfl
@[simp] theorem ignoreHalted_response (s : State) :
    (ignoreHalted s).response = some (.bare .fltHalted) := rfl
@[simp] theorem ignoreHalted_inputs (s : State) :
    (ignoreHalted s).inputs = s.inputs := rfl

/-! `applyReset` -/

@[simp] theorem applyReset_fb (c : Config) (s : State) :
    (applyReset c s).fb = 0 := rfl
@[simp] theorem applyReset_tag (c : Config) (s : State) :
    (applyReset c s).tag = c.defaultMode.tag := rfl
@[simp] theorem applyReset_len (c : Config) (s : State) :
    (applyReset c s).len = BitVec.ofNat 16 c.defaultMode.entries.length := rfl
@[simp] theorem applyReset_seq (c : Config) (s : State) :
    (applyReset c s).seq = c.defaultMode.entries := rfl
@[simp] theorem applyReset_cursor (c : Config) (s : State) :
    (applyReset c s).cursor = c.defaultMode.cursor := rfl
@[simp] theorem applyReset_stg (c : Config) (s : State) :
    (applyReset c s).stg = [] := rfl
@[simp] theorem applyReset_stgLen (c : Config) (s : State) :
    (applyReset c s).stgLen = 0 := rfl
@[simp] theorem applyReset_stgGlyph (c : Config) (s : State) :
    (applyReset c s).stgGlyph = false := rfl
@[simp] theorem applyReset_fault (c : Config) (s : State) :
    (applyReset c s).fault = false := rfl
@[simp] theorem applyReset_fcode (c : Config) (s : State) :
    (applyReset c s).fcode = 0 := rfl
@[simp] theorem applyReset_response (c : Config) (s : State) :
    (applyReset c s).response = none := rfl
@[simp] theorem applyReset_inputs (c : Config) (s : State) :
    (applyReset c s).inputs = s.inputs := rfl

/-! `appendStg` -/

@[simp] theorem appendStg_fb (s : State) (new : List Entry) (g : Bool) :
    (s.appendStg new g).fb = s.fb := rfl
@[simp] theorem appendStg_tag (s : State) (new : List Entry) (g : Bool) :
    (s.appendStg new g).tag = s.tag := rfl
@[simp] theorem appendStg_len (s : State) (new : List Entry) (g : Bool) :
    (s.appendStg new g).len = s.len := rfl
@[simp] theorem appendStg_seq (s : State) (new : List Entry) (g : Bool) :
    (s.appendStg new g).seq = s.seq := rfl
@[simp] theorem appendStg_cursor (s : State) (new : List Entry) (g : Bool) :
    (s.appendStg new g).cursor = s.cursor := rfl
@[simp] theorem appendStg_stg (s : State) (new : List Entry) (g : Bool) :
    (s.appendStg new g).stg = s.stg ++ new := rfl
@[simp] theorem appendStg_stgLen (s : State) (new : List Entry) (g : Bool) :
    (s.appendStg new g).stgLen = s.stgLen + BitVec.ofNat 16 new.length := rfl
@[simp] theorem appendStg_stgGlyph (s : State) (new : List Entry) (g : Bool) :
    (s.appendStg new g).stgGlyph = g := rfl
@[simp] theorem appendStg_fault (s : State) (new : List Entry) (g : Bool) :
    (s.appendStg new g).fault = s.fault := rfl
@[simp] theorem appendStg_fcode (s : State) (new : List Entry) (g : Bool) :
    (s.appendStg new g).fcode = s.fcode := rfl
@[simp] theorem appendStg_response (s : State) (new : List Entry) (g : Bool) :
    (s.appendStg new g).response = s.response := rfl
@[simp] theorem appendStg_inputs (s : State) (new : List Entry) (g : Bool) :
    (s.appendStg new g).inputs = s.inputs := rfl

/-! `clearStg` -/

@[simp] theorem clearStg_fb (s : State) :
    (s.clearStg).fb = s.fb := rfl
@[simp] theorem clearStg_tag (s : State) :
    (s.clearStg).tag = s.tag := rfl
@[simp] theorem clearStg_len (s : State) :
    (s.clearStg).len = s.len := rfl
@[simp] theorem clearStg_seq (s : State) :
    (s.clearStg).seq = s.seq := rfl
@[simp] theorem clearStg_cursor (s : State) :
    (s.clearStg).cursor = s.cursor := rfl
@[simp] theorem clearStg_stg (s : State) :
    (s.clearStg).stg = [] := rfl
@[simp] theorem clearStg_stgLen (s : State) :
    (s.clearStg).stgLen = 0 := rfl
@[simp] theorem clearStg_stgGlyph (s : State) :
    (s.clearStg).stgGlyph = false := rfl
@[simp] theorem clearStg_fault (s : State) :
    (s.clearStg).fault = s.fault := rfl
@[simp] theorem clearStg_fcode (s : State) :
    (s.clearStg).fcode = s.fcode := rfl
@[simp] theorem clearStg_response (s : State) :
    (s.clearStg).response = s.response := rfl
@[simp] theorem clearStg_inputs (s : State) :
    (s.clearStg).inputs = s.inputs := rfl

/-! `advance` -/

@[simp] theorem advance_fb (s : State) (e : Entry) :
    (s.advance e).fb = advanceFrame s.tag s.fb e := rfl
@[simp] theorem advance_tag (s : State) (e : Entry) :
    (s.advance e).tag = s.tag := rfl
@[simp] theorem advance_len (s : State) (e : Entry) :
    (s.advance e).len = s.len := rfl
@[simp] theorem advance_seq (s : State) (e : Entry) :
    (s.advance e).seq = s.seq := rfl
@[simp] theorem advance_cursor (s : State) (e : Entry) :
    (s.advance e).cursor = nextCursor s.cursor s.len := rfl
@[simp] theorem advance_stg (s : State) (e : Entry) :
    (s.advance e).stg = s.stg := rfl
@[simp] theorem advance_stgLen (s : State) (e : Entry) :
    (s.advance e).stgLen = s.stgLen := rfl
@[simp] theorem advance_stgGlyph (s : State) (e : Entry) :
    (s.advance e).stgGlyph = s.stgGlyph := rfl
@[simp] theorem advance_fault (s : State) (e : Entry) :
    (s.advance e).fault = s.fault := rfl
@[simp] theorem advance_fcode (s : State) (e : Entry) :
    (s.advance e).fcode = s.fcode := rfl
@[simp] theorem advance_response (s : State) (e : Entry) :
    (s.advance e).response = s.response := rfl
@[simp] theorem advance_inputs (s : State) (e : Entry) :
    (s.advance e).inputs = s.inputs := rfl

/-! `install` -/

@[simp] theorem install_fb (s : State) (tag : ModeTag) :
    (s.install tag).fb = s.fb := rfl
@[simp] theorem install_tag (s : State) (tag : ModeTag) :
    (s.install tag).tag = tag := rfl
@[simp] theorem install_len (s : State) (tag : ModeTag) :
    (s.install tag).len = s.stgLen := rfl
@[simp] theorem install_seq (s : State) (tag : ModeTag) :
    (s.install tag).seq = s.stg := rfl
@[simp] theorem install_cursor (s : State) (tag : ModeTag) :
    (s.install tag).cursor = 0 := rfl
@[simp] theorem install_stg (s : State) (tag : ModeTag) :
    (s.install tag).stg = [] := rfl
@[simp] theorem install_stgLen (s : State) (tag : ModeTag) :
    (s.install tag).stgLen = 0 := rfl
@[simp] theorem install_stgGlyph (s : State) (tag : ModeTag) :
    (s.install tag).stgGlyph = false := rfl
@[simp] theorem install_fault (s : State) (tag : ModeTag) :
    (s.install tag).fault = s.fault := rfl
@[simp] theorem install_fcode (s : State) (tag : ModeTag) :
    (s.install tag).fcode = s.fcode := rfl
@[simp] theorem install_response (s : State) (tag : ModeTag) :
    (s.install tag).response = s.response := rfl
@[simp] theorem install_inputs (s : State) (tag : ModeTag) :
    (s.install tag).inputs = s.inputs := rfl

/-! `setColReg` -/

@[simp] theorem setColReg_fb (s : State) (k : Fin 8) (v : Column) :
    (s.setColReg k v).fb = setCol s.fb k v := rfl
@[simp] theorem setColReg_tag (s : State) (k : Fin 8) (v : Column) :
    (s.setColReg k v).tag = s.tag := rfl
@[simp] theorem setColReg_len (s : State) (k : Fin 8) (v : Column) :
    (s.setColReg k v).len = s.len := rfl
@[simp] theorem setColReg_seq (s : State) (k : Fin 8) (v : Column) :
    (s.setColReg k v).seq = s.seq := rfl
@[simp] theorem setColReg_cursor (s : State) (k : Fin 8) (v : Column) :
    (s.setColReg k v).cursor = s.cursor := rfl
@[simp] theorem setColReg_stg (s : State) (k : Fin 8) (v : Column) :
    (s.setColReg k v).stg = s.stg := rfl
@[simp] theorem setColReg_stgLen (s : State) (k : Fin 8) (v : Column) :
    (s.setColReg k v).stgLen = s.stgLen := rfl
@[simp] theorem setColReg_stgGlyph (s : State) (k : Fin 8) (v : Column) :
    (s.setColReg k v).stgGlyph = s.stgGlyph := rfl
@[simp] theorem setColReg_fault (s : State) (k : Fin 8) (v : Column) :
    (s.setColReg k v).fault = s.fault := rfl
@[simp] theorem setColReg_fcode (s : State) (k : Fin 8) (v : Column) :
    (s.setColReg k v).fcode = s.fcode := rfl
@[simp] theorem setColReg_response (s : State) (k : Fin 8) (v : Column) :
    (s.setColReg k v).response = s.response := rfl
@[simp] theorem setColReg_inputs (s : State) (k : Fin 8) (v : Column) :
    (s.setColReg k v).inputs = s.inputs := rfl

/-! `presentWord` -/

@[simp] theorem presentWord_fb (s : State) (w : CommandWord) :
    (s.presentWord w).fb = s.fb := rfl
@[simp] theorem presentWord_tag (s : State) (w : CommandWord) :
    (s.presentWord w).tag = s.tag := rfl
@[simp] theorem presentWord_len (s : State) (w : CommandWord) :
    (s.presentWord w).len = s.len := rfl
@[simp] theorem presentWord_seq (s : State) (w : CommandWord) :
    (s.presentWord w).seq = s.seq := rfl
@[simp] theorem presentWord_cursor (s : State) (w : CommandWord) :
    (s.presentWord w).cursor = s.cursor := rfl
@[simp] theorem presentWord_stg (s : State) (w : CommandWord) :
    (s.presentWord w).stg = s.stg := rfl
@[simp] theorem presentWord_stgLen (s : State) (w : CommandWord) :
    (s.presentWord w).stgLen = s.stgLen := rfl
@[simp] theorem presentWord_stgGlyph (s : State) (w : CommandWord) :
    (s.presentWord w).stgGlyph = s.stgGlyph := rfl
@[simp] theorem presentWord_fault (s : State) (w : CommandWord) :
    (s.presentWord w).fault = s.fault := rfl
@[simp] theorem presentWord_fcode (s : State) (w : CommandWord) :
    (s.presentWord w).fcode = s.fcode := rfl
@[simp] theorem presentWord_response (s : State) (w : CommandWord) :
    (s.presentWord w).response = s.response := rfl
@[simp] theorem presentWord_inputs (s : State) (w : CommandWord) :
    (s.presentWord w).inputs = ⟨false, some w⟩ :: s.inputs := rfl

end Sys2Proof.Machine
end

