-- ==== Sys2Proof/Laws/Ops.lean ====
section
/-! SUPPORT. What each shared operation can do, said once. -/

namespace Sys2Proof.Machine

/-! How a command begins and ends. -/

theorem whenRunning_running {s : State} {run : State → Result} (h : s.fault = false) : whenRunning s run = run s := by
  simp [whenRunning, h]

theorem whenRunning_halted {s : State} {run : State → Result} (h : s.fault = true) :
    whenRunning s run = .next (ignoreHalted s) := by
  simp [whenRunning, h]

/-- What a guarded command that answers a next state has done: ignored while halted, run while running. -/
theorem whenRunning_next {s s' : State} {run : State → Result} (h : whenRunning s run = .next s') :
    (s.fault = true ∧ s' = ignoreHalted s) ∨ (s.fault = false ∧ run s = .next s') := by
  cases hf : s.fault
  · exact .inr ⟨rfl, by rwa [whenRunning_running hf] at h⟩
  · rw [whenRunning_halted hf] at h
    cases h
    exact .inl ⟨rfl, rfl⟩

/-! Operands. -/

theorem cellOfOperands_inside {row k : Nat} (hr : row < 8) (hk : k < 8) :
    cellOfOperands row k = some (⟨row, hr⟩, ⟨k, hk⟩) := by
  simp [cellOfOperands, hr, hk]

theorem cellOfOperands_outside {row k : Nat} (h : 7 < row ∨ 7 < k) : cellOfOperands row k = none := by
  have : ¬ (row < 8 ∧ k < 8) := by omega
  simp [cellOfOperands, this]

theorem cellOfOperands_some {row k : Nat} {cell : Cell} (h : cellOfOperands row k = some cell) :
    row = cell.1.val ∧ k = cell.2.val := by
  unfold cellOfOperands at h
  split at h
  · cases h
    exact ⟨rfl, rfl⟩
  · cases h

theorem cellOfOperands_none {row k : Nat} (h : cellOfOperands row k = none) : 7 < row ∨ 7 < k := by
  by_contra hn
  rw [cellOfOperands_inside (by omega) (by omega)] at h
  cases h

theorem mem_allCells (cell : Cell) : cell ∈ allCells := by
  simp [allCells, List.mem_flatMap]

theorem allCells_length : allCells.length = 64 := by decide +kernel

theorem renderOrderWf_perm {order : List Cell} (h : renderOrderWf order = true) : order.Perm allCells :=
  List.isPerm_iff.mp h

/-! The sequence memories. -/

/-- Every operation over the sequence memories keeps their canonical form: the append, where the new length fits 16 bits … -/
theorem appendStg_wf {s : State} {new : List Entry} {g : Bool} (h : SeqMemory.wf s.stgLen s.stg)
    (hfit : s.stgLen.toNat + new.length ≤ 65535) :
    SeqMemory.wf (s.appendStg new g).stgLen (s.appendStg new g).stg := by
  simp only [SeqMemory.wf, appendStg_stg, appendStg_stgLen, List.length_append, BitVec.toNat_add, BitVec.toNat_ofNat] at h ⊢
  omega

/-- … emptying the staging buffer … -/
theorem clearStg_wf (s : State) : SeqMemory.wf s.clearStg.stgLen s.clearStg.stg := rfl

/-- … and installing it. -/
theorem install_wf {s : State} {tag : ModeTag} (h : SeqMemory.wf s.stgLen s.stg) :
    SeqMemory.wf (s.install tag).len (s.install tag).seq ∧ SeqMemory.wf (s.install tag).stgLen (s.install tag).stg :=
  ⟨h, rfl⟩

theorem appendStg_stgLen_toNat {s : State} {new : List Entry} {g : Bool} (hfit : s.stgLen.toNat + new.length ≤ 65535) :
    (s.appendStg new g).stgLen.toNat = s.stgLen.toNat + new.length := by
  simp only [appendStg_stgLen, BitVec.toNat_add, BitVec.toNat_ofNat]
  omega

theorem appendCommand_full {n : Nat} {new : List Entry} {g : Bool} {s : State} (h : n < s.stgLen.toNat + new.length) :
    appendCommand n new g s = reject .errFull s := by
  simp [appendCommand, State.wouldOverflow, h]

theorem appendCommand_fits {n : Nat} {new : List Entry} {g : Bool} {s : State} (h : s.stgLen.toNat + new.length ≤ n) :
    appendCommand n new g s =
      respondOk (BitVec.ofNat 4 new.length) ((s.appendStg new g).stgLen.setWidth 64) (s.appendStg new g) := by
  have : ¬ n < s.stgLen.toNat + new.length := by omega
  simp [appendCommand, State.wouldOverflow, this]

theorem currentEntry_some {s : State} {e : Entry} :
    s.currentEntry = some e ↔ s.cursor.toNat < s.len.toNat ∧ s.seq[s.cursor.toNat]? = some e := by
  unfold State.currentEntry
  split <;> simp_all

theorem nextCursor_toNat (cursor : BitVec 16) {len : BitVec 16} (h : len ≠ 0) :
    (nextCursor cursor len).toNat = (cursor.toNat + 1) % len.toNat := by
  have hlen : 0 < len.toNat := by
    rcases Nat.eq_zero_or_pos len.toNat with h0 | h0
    · exact absurd (BitVec.eq_of_toNat_eq (by simpa using h0)) h
    · exact h0
  have := Nat.mod_lt (cursor.toNat + 1) hlen
  have := len.isLt
  simp only [nextCursor, BitVec.toNat_ofNat]
  omega

/-! The compositor. -/

theorem split_length (P : DisplayState) : (split P).length = 8 := rfl

/-- The compositor's result has 1 to 8 Columns. -/
theorem trimmedColumns_length (P : DisplayState) : 1 ≤ (trimmedColumns P).length ∧ (trimmedColumns P).length ≤ 8 := by
  unfold trimmedColumns
  simp only
  split
  · simp
  · next h =>
    have hlt : (split P).findIdx (· != 0) < (split P).length := by
      rw [List.findIdx_lt_length]
      simpa using h
    simp only [List.length_drop, split_length] at hlt ⊢
    omega

end Sys2Proof.Machine
end

