-- ==== Sys2Proof/Laws/Step.lean ====
section
/-! SUPPORT. What the port, `step` and a run of commands can do, said once. -/

namespace Sys2Proof.Machine

theorem serveNext_idle {c : Config} {run : Instr → State → Result} {s : State} (h : s.inputs = []) :
    serveNext c run s = .next s := by
  simp [serveNext, h]

theorem serveNext_input {c : Config} {run : Instr → State → Result} {s : State} {p : PortInput} {rest : List PortInput}
    (h : s.inputs = p :: rest) : serveNext c run s = serveInput c run p { s with inputs := rest } := by
  simp [serveNext, h]

theorem serveInput_reset {c : Config} {run : Instr → State → Result} {cw : Option CommandWord} {s : State} :
    serveInput c run ⟨true, cw⟩ s = .next (applyReset c s) := rfl

theorem serveInput_none {c : Config} {run : Instr → State → Result} {s : State} :
    serveInput c run ⟨false, none⟩ s = .next s := rfl

theorem serveInput_word {c : Config} {run : Instr → State → Result} {w : CommandWord} {s : State} :
    serveInput c run ⟨false, some w⟩ s = serveWord run w s := rfl

theorem serveWord_legal {run : Instr → State → Result} {w : CommandWord} {s : State} {i : Instr} (h : decode w = .ok i) :
    serveWord run w s = run i s := by
  simp [serveWord, h]

theorem serveWord_illegal {run : Instr → State → Result} {w : CommandWord} {s : State} {e : Illegal}
    (h : decode w = .error e) :
    serveWord run w s = whenRunning s fun s => .next (raiseFault .illegalCmd s) := by
  simp [serveWord, h]

/-- What a step that answers a next state can have done. -/
theorem serveNext_next {c : Config} {run : Instr → State → Result} {s s' : State} (h : serveNext c run s = .next s') :
    (s.inputs = [] ∧ s' = s) ∨
    ∃ p rest, s.inputs = p :: rest ∧
      ((p.rst = true ∧ s' = applyReset c { s with inputs := rest }) ∨
       (p.rst = false ∧ p.cw = none ∧ s' = { s with inputs := rest }) ∨
       (p.rst = false ∧ ∃ w, p.cw = some w ∧
        ((∃ e, decode w = .error e ∧
            whenRunning { s with inputs := rest } (fun s => .next (raiseFault .illegalCmd s)) = .next s') ∨
         (∃ i, decode w = .ok i ∧ run i { s with inputs := rest } = .next s')))) := by
  unfold serveNext at h
  split at h
  · next hi =>
    cases h
    exact .inl ⟨hi, rfl⟩
  · next p rest hi =>
    refine .inr ⟨p, rest, hi, ?_⟩
    obtain ⟨rst, cw⟩ := p
    cases rst
    · cases cw with
      | none => cases h; exact .inr (.inl ⟨rfl, rfl, rfl⟩)
      | some w =>
        refine .inr (.inr ⟨rfl, w, rfl, ?_⟩)
        rw [serveInput_word] at h
        cases hd : decode w with
        | error e => rw [serveWord_illegal hd] at h; exact .inl ⟨e, rfl, h⟩
        | ok i => rw [serveWord_legal hd] at h; exact .inr ⟨i, rfl, h⟩
    · cases h
      exact .inl ⟨rfl, rfl⟩

/-! What a command can do. -/

/-- Every way a command performed by a running block can end in a next state: the state it leaves. -/
inductive Effect (c : Config) (s : State) : Instr → State → Prop
  | glyph (ch : CharCode) : Effect c s (.glyph ch) (respondOk 0 (glyphRom c ch) s)
  | cols (ch : CharCode) :
      Effect c s (.cols ch)
        (respondOk (BitVec.ofNat 4 (columnsForChar c ch).length) (packList (columnsForChar c ch)) s)
  | map {row k : Nat} {cell : Cell} (h : cellOfOperands row k = some cell) :
      Effect c s (.map row k) (respondOk 0 (coordData (physical c cell)) s)
  | mapFault {row k : Nat} (h : 7 < row ∨ 7 < k) : Effect c s (.map row k) (raiseFault .coordRange s)
  | scrollin (col8 : Column) : Effect c s (.scrollin col8) (respondOk 0 0 { s with fb := scrollIn s.fb col8 })
  | replace (frame : DisplayState) : Effect c s (.replace frame) (respondOk 0 0 { s with fb := frame })
  | tick {e : Entry} (h : s.currentEntry = some e) :
      Effect c s .tick (respondOk 0 ((wrapBit (s.advance e).cursor).setWidth 64) (s.advance e))
  | pixel {row k : Nat} {cell : Cell} (h : cellOfOperands row k = some cell) :
      Effect c s (.pixel row k) (respondOk 0 (pixelData (on s.fb cell) (physical c cell)) s)
  | pixelFault {row k : Nat} (h : 7 < row ∨ 7 < k) : Effect c s (.pixel row k) (raiseFault .coordRange s)
  | rdfb : Effect c s .rdfb (respondOk 0 s.fb s)
  | rdstat : Effect c s .rdstat (respondOk 0 (statusWord s) s)
  | stgclr : Effect c s .stgclr (respondOk 0 0 s.clearStg)
  | stgcol (col8 : Column) : Effect c s (.stgcol col8) (appendCommand c.seqMax [entryOfColumn col8] false s)
  | stgfrm (frame : DisplayState) : Effect c s (.stgfrm frame) (appendCommand c.seqMax [frame] false s)
  | stgchar (ch : CharCode) :
      Effect c s (.stgchar ch) (appendCommand c.seqMax ((stagedColumns c s.stgGlyph ch).map entryOfColumn) true s)
  | commitEmpty (tag : ModeTag) (h : s.stgLen = 0) : Effect c s (.commit tag) (reject .errEmpty s)
  | commit (tag : ModeTag) (h : s.stgLen ≠ 0) :
      Effect c s (.commit tag) (respondOk 0 (s.stgLen.setWidth 64) (s.install tag))

/-- A halted block ignores every command (R225). -/
theorem execIn_halted (c : Config) (i : Instr) {s : State} (h : s.fault = true) : execIn c i s = .next (ignoreHalted s) := by
  cases i <;> simp only [execIn, glyphIn, colsIn, mapIn, execScrollin,
    execReplace, execTick, pixelIn, execRdfb, execRdstat, execStgclr, stgcolIn, stgfrmIn, stgcharIn, execCommit] <;>
    exact whenRunning_halted h

/-- What a command that answers a next state has done. -/
theorem execIn_next {c : Config} {i : Instr} {s s' : State} (h : execIn c i s = .next s') :
    (s.fault = true ∧ s' = ignoreHalted s) ∨ (s.fault = false ∧ Effect c s i s') := by
  cases i <;> simp only [execIn, glyphIn, colsIn, mapIn, execScrollin, execReplace, execTick, pixelIn, execRdfb, execRdstat,
    execStgclr, stgcolIn, stgfrmIn, stgcharIn, execCommit] at h <;>
    obtain hh | ⟨hf, h⟩ := whenRunning_next h <;> first | exact .inl hh | refine .inr ⟨hf, ?_⟩
  case map =>
    split at h
    · cases h; exact .map ‹_›
    · cases h; exact .mapFault (cellOfOperands_none ‹_›)
  case pixel =>
    split at h
    · cases h; exact .pixel ‹_›
    · cases h; exact .pixelFault (cellOfOperands_none ‹_›)
  case tick =>
    split at h
    · cases h; exact .tick ‹_›
    · cases h
  case commit =>
    split at h
    · cases h; exact .commitEmpty _ ‹_›
    · cases h; exact .commit _ ‹_›
  all_goals cases h; constructor

/-- The same of this hardware's `exec`. -/
theorem exec_next {i : Instr} {s s' : State} (h : exec i s = .next s') :
    (s.fault = true ∧ s' = ignoreHalted s) ∨ (s.fault = false ∧ Effect Config.thisHardware s i s') := by
  cases i <;> exact execIn_next h

/-- What an append leaves: everything or nothing. -/
theorem appendCommand_cases (n : Nat) (new : List Entry) (g : Bool) (s : State) :
    (n < s.stgLen.toNat + new.length ∧ appendCommand n new g s = reject .errFull s) ∨
    (s.stgLen.toNat + new.length ≤ n ∧ appendCommand n new g s =
      respondOk (BitVec.ofNat 4 new.length) ((s.appendStg new g).stgLen.setWidth 64) (s.appendStg new g)) := by
  rcases Nat.lt_or_ge n (s.stgLen.toNat + new.length) with h | h
  · exact .inl ⟨h, appendCommand_full h⟩
  · exact .inr ⟨h, appendCommand_fits h⟩

/-! A run of commands. -/

theorem okOutcome_ok {s' : State} {r : Response} (h : s'.response = some r) (hok : r.status = .ok) :
    okOutcome (.next s') = some (s', r) := by
  simp [okOutcome, h, hok]

theorem okOutcome_some {o : Result} {s' : State} {r : Response} (h : okOutcome o = some (s', r)) :
    o = .next s' ∧ s'.response = some r ∧ r.status = .ok := by
  unfold okOutcome at h
  split at h
  · split at h
    · split at h
      · cases h
        exact ⟨rfl, ‹_›, ‹_›⟩
      · cases h
    · cases h
  · cases h
  · cases h

theorem runOk_cons {c : Config} {i : Instr} {is : List Instr} {s s' : State} {r : Response}
    (h : okOutcome (execIn c i s) = some (s', r)) :
    runOk c (i :: is) s = (runOk c is s').map fun p => (p.1, r :: p.2) := by
  simp [runOk, h]

end Sys2Proof.Machine
end

