-- ==== Sys2Proof/Laws/Boundary.lean ====
section
/-! SUPPORT. What the controller's operations and one tick of the owner can do, said once. -/

namespace Sys2Proof.Machine

/-- `set-one` calls put their cells in front of those already written, the latest first. -/
theorem foldl_setOne_written (entries : List (PhysAddr × Bool)) (k : Controller) :
    ((entries.map fun e => ControllerOp.setOne e.1 e.2).foldl Controller.apply k).written = entries.reverse ++ k.written := by
  induction entries generalizing k with
  | nil => rfl
  | cons e es ih => simp [ih, Controller.apply]

/-- At the wrap-around boundary of a `Scroll` sequence the sleep is the long one, whatever the owner chooses. -/
theorem sleepAfter_scroll (pauseInAnimate : Bool) (tick : Response) :
    sleepAfter .scroll pauseInAnimate tick = if tick.data.getLsbD 0 then .wrapPause else .tickDelay := by
  simp [sleepAfter, pauseApplies]

/-- Away from a boundary the sleep is the short one. -/
theorem sleepAfter_no_wrap {tick : Response} (h : tick.data.getLsbD 0 = false) (tag : ModeTag) (pauseInAnimate : Bool) :
    sleepAfter tag pauseInAnimate tick = .tickDelay := by
  rw [sleepAfter, h]
  rfl

/-- A tick of the owner that goes through: its order is one of the 64 cells, its commands were all `ok`, and the entries of the 64 responses
were pushed. -/
theorem ownerTick_some {c : Config} {choice : OwnerChoice} {b b' : Board} {done : List OwnerAction}
    (h : ownerTick c choice b = some (b', done)) :
    renderOrderWf choice.order = true ∧
    ∃ tick pixels, runOk c (tickCommands choice.order) b.block = some (b'.block, tick :: pixels) ∧
      b'.controller = (pushOps (pixels.map entryOfResponse)).foldl Controller.apply b.controller ∧
      done = (tickCommands choice.order).map .command ++ (pushOps (pixels.map entryOfResponse)).map .controller
        ++ [.sleep (sleepAfter b'.block.tag choice.pauseInAnimate tick)] := by
  unfold ownerTick at h
  split at h
  · next hwf =>
    split at h
    · next hrun =>
      cases h
      exact ⟨hwf, _, _, hrun, rfl, rfl⟩
    · cases h
    · cases h
  · cases h

/-- One more tick in front of a loop. -/
theorem ownerLoop_cons {c : Config} {choice : OwnerChoice} {choices : List OwnerChoice} {b b' : Board} {done : List OwnerAction}
    (h : ownerTick c choice b = some (b', done)) :
    ownerLoop c (choice :: choices) b = (ownerLoop c choices b').map fun r => (r.1, done ++ r.2) := by
  simp [ownerLoop, h]

end Sys2Proof.Machine
end

