-- ==== Sys2Proof/Laws/PerInstr.lean ====
section
/-! SUPPORT. Facts about every instruction as syntax, one lemma per constructor. -/

namespace Sys2Proof.Laws.EncodedOpcode

/-- The opcode of R85's table that the encoder puts in bits 67:64. -/
def opcode : Instr → BitVec 4
  | .glyph _    => 0x1
  | .cols _     => 0x2
  | .map _ _    => 0x3
  | .scrollin _ => 0x4
  | .replace _  => 0x5
  | .tick       => 0x6
  | .pixel _ _  => 0x7
  | .rdfb       => 0x8
  | .rdstat     => 0x9
  | .stgclr     => 0xA
  | .stgcol _   => 0xB
  | .stgfrm _   => 0xC
  | .stgchar _  => 0xD
  | .commit _   => 0xE

/-- The `op` field of the encoded word is the table's opcode (R81, R85). -/
def Statement (i : Instr) : Prop := opField (encode i) = opcode i

theorem glyph (ch : CharCode) : Statement (.glyph ch) := opField_commandWord _ _
theorem cols (ch : CharCode) : Statement (.cols ch) := opField_commandWord _ _
theorem map (row col : Nat) : Statement (.map row col) := opField_commandWord _ _
theorem scrollin (col8 : Column) : Statement (.scrollin col8) := opField_commandWord _ _
theorem replace (frame : DisplayState) : Statement (.replace frame) := opField_commandWord _ _
theorem tick : Statement .tick := opField_commandWord _ _
theorem pixel (row col : Nat) : Statement (.pixel row col) := opField_commandWord _ _
theorem rdfb : Statement .rdfb := opField_commandWord _ _
theorem rdstat : Statement .rdstat := opField_commandWord _ _
theorem stgclr : Statement .stgclr := opField_commandWord _ _
theorem stgcol (col8 : Column) : Statement (.stgcol col8) := opField_commandWord _ _
theorem stgfrm (frame : DisplayState) : Statement (.stgfrm frame) := opField_commandWord _ _
theorem stgchar (ch : CharCode) : Statement (.stgchar ch) := opField_commandWord _ _
theorem commit (tag : ModeTag) : Statement (.commit tag) := opField_commandWord _ _

end Sys2Proof.Laws.EncodedOpcode
end

