-- ==== Sys2Proof/Machine/Assembler.lean ====
section
/-! DEFINITION. The textual syntax of commands and pseudo-commands (R91, R92): one line of text to the commands it stands for. It is
the spec's notation for programs and no part of the block. -/

namespace Sys2Proof.Machine

/-- A token of a line: a run of other characters, a quoted character, a quoted text, a comma (R91, R92). -/
inductive Token where
  | word (cs : List Char)
  | quoted (ch : Char)
  | text (cs : List Char)
  | comma
  deriving DecidableEq, Repr

/-- The word read so far as a token, if there is one. -/
def flushWord (acc : List Char) : List Token := if acc.isEmpty then [] else [.word acc]

/-- The tokens of a line. `inText` holds the characters of a text in double quotes that is open. A `;` ends the line (R91). -/
def lex : (inText : Option (List Char)) → (acc : List Char) → List Char → Option (List Token)
  | none, acc, []                          => some (flushWord acc)
  | some _, _, []                          => none
  | some txt, acc, ch :: rest              =>
    if ch = '"' then (lex none acc rest).map (.text txt :: ·) else lex (some (txt ++ [ch])) acc rest
  | none, acc, '\'' :: ch :: '\'' :: rest  => (lex none [] rest).map (flushWord acc ++ .quoted ch :: ·)
  | none, acc, ch :: rest                  =>
    if ch = ';' then some (flushWord acc)
    else if ch = '"' then (lex (some []) [] rest).map (flushWord acc ++ ·)
    else if ch = ',' then (lex none [] rest).map (flushWord acc ++ .comma :: ·)
    else if ch = ' ' ∨ ch = '\t' then (lex none [] rest).map (flushWord acc ++ ·)
    else if ch = '\'' then none
    else lex none (acc ++ [ch]) rest

/-- The value of a digit, 0 to 15. -/
def digitValue (ch : Char) : Option Nat :=
  let n := ch.toNat
  if 48 ≤ n ∧ n ≤ 57 then some (n - 48)
  else if 65 ≤ n ∧ n ≤ 70 then some (n - 55)
  else if 97 ≤ n ∧ n ≤ 102 then some (n - 87)
  else none

/-- The value of digits in a base, the first the most significant; `_` is a separator (R91). -/
def digitsValue (base : Nat) : (acc : Nat) → List Char → Option Nat
  | acc, []         => some acc
  | acc, ch :: rest =>
    if ch = '_' then digitsValue base acc rest
    else
      match digitValue ch with
      | some d => if d < base then digitsValue base (base * acc + d) rest else none
      | none   => none

/-- At least one digit stands in the characters. -/
def hasDigit (cs : List Char) : Bool := cs.any fun ch => (digitValue ch).isSome

/-- A number in decimal, `0x` hexadecimal or `0b` binary (R91). -/
def numberOf (cs : List Char) : Option Nat :=
  match cs with
  | '0' :: 'x' :: rest => if hasDigit rest then digitsValue 16 0 rest else none
  | '0' :: 'b' :: rest => if hasDigit rest then digitsValue 2 0 rest else none
  | _                  => if hasDigit cs then digitsValue 10 0 cs else none

/-- A number that fits a field of `n` bits; a wider one is no operand (log entry 10). -/
def fieldOf (n : Nat) (t : Token) : Option (BitVec n) :=
  match t with
  | .word cs => (numberOf cs).bind fun v => if v < 2 ^ n then some (BitVec.ofNat n v) else none
  | _        => none

/-- The code of a character: 8 bits, ASCII for the characters the spec names (R91; log entry 5). -/
def codeOf (ch : Char) : Option CharCode := if ch.toNat < 256 then some (BitVec.ofNat 8 ch.toNat) else none

/-- A `ch` operand: a number, or a character in single quotes (R91). -/
def chOperand (t : Token) : Option CharCode :=
  match t with
  | .quoted ch => codeOf ch
  | t          => fieldOf 8 t

/-- An index operand `row` or `col`: a number that fits its 8-bit field (R82, R91). -/
def indexOperand (t : Token) : Option Nat := (fieldOf 8 t).map BitVec.toNat

/-- A `tag` operand: a number, or the words `SCROLL` and `ANIMATE` (R91). -/
def tagOperand (t : Token) : Option ModeTag :=
  if t = .word ['S', 'C', 'R', 'O', 'L', 'L'] then some .scroll
  else if t = .word ['A', 'N', 'I', 'M', 'A', 'T', 'E'] then some .animate
  else (fieldOf 1 t).map fun b => tagOfBit (b.getLsbD 0)

/-- Operands separated by commas (R91): at least one, each a single token. -/
def operands : List Token → Option (List Token)
  | []                  => none
  | [t]                 => if t = .comma then none else some [t]
  | t :: .comma :: rest => if t = .comma then none else (operands rest).map (t :: ·)
  | _ :: _ :: _         => none

/-- One operand, read by `f`. -/
def oneOperand {α : Type} (f : Token → Option α) (ts : List Token) : Option α :=
  match operands ts with
  | some [t] => f t
  | _        => none

/-- Two index operands (R91). -/
def twoIndices (ts : List Token) : Option (Nat × Nat) :=
  match operands ts with
  | some [r, k] => (indexOperand r).bind fun row => (indexOperand k).map fun col => (row, col)
  | _           => none

/-- Every operand of a list, read by `f`. -/
def allOperands {α : Type} (f : Token → Option α) (ts : List Token) : Option (List α) :=
  (operands ts).bind fun l => l.mapM f

/-- A text in double quotes as character codes (R92). -/
def textOperand (ts : List Token) : Option (List CharCode) :=
  match ts with
  | [.text cs] => cs.mapM codeOf
  | _          => none

/-- A command without operands. -/
def plain (i : Instr) (ts : List Token) : Option (List Instr) := if ts.isEmpty then some [i] else none

/-- The mnemonics of R85 and the pseudo-commands of R92, each with the reading of its operands. `order` is the order of the 64
commands of `RENDER`, which is open (R193). -/
def lineForms (order : List Cell) : List (List Char × (List Token → Option (List Instr))) :=
  [(['G', 'L', 'Y', 'P', 'H'], fun ts => (oneOperand chOperand ts).map fun ch => [.glyph ch]),
   (['C', 'O', 'L', 'S'], fun ts => (oneOperand chOperand ts).map fun ch => [.cols ch]),
   (['M', 'A', 'P'], fun ts => (twoIndices ts).map fun p => [.map p.1 p.2]),
   (['S', 'C', 'R', 'O', 'L', 'L', 'I', 'N'], fun ts => (oneOperand (fieldOf 8) ts).map fun c => [.scrollin c]),
   (['R', 'E', 'P', 'L', 'A', 'C', 'E'], fun ts => (oneOperand (fieldOf 64) ts).map fun f => [.replace f]),
   (['T', 'I', 'C', 'K'], plain .tick),
   (['P', 'I', 'X', 'E', 'L'], fun ts => (twoIndices ts).map fun p => [.pixel p.1 p.2]),
   (['R', 'D', 'F', 'B'], plain .rdfb),
   (['R', 'D', 'S', 'T', 'A', 'T'], plain .rdstat),
   (['S', 'T', 'G', 'C', 'L', 'R'], plain .stgclr),
   (['S', 'T', 'G', 'C', 'O', 'L'], fun ts => (oneOperand (fieldOf 8) ts).map fun c => [.stgcol c]),
   (['S', 'T', 'G', 'F', 'R', 'M'], fun ts => (oneOperand (fieldOf 64) ts).map fun f => [.stgfrm f]),
   (['S', 'T', 'G', 'C', 'H', 'A', 'R'], fun ts => (oneOperand chOperand ts).map fun ch => [.stgchar ch]),
   (['C', 'O', 'M', 'M', 'I', 'T'], fun ts => (oneOperand tagOperand ts).map fun t => [.commit t])] ++
  [(['S', 'T', 'R'], fun ts => (textOperand ts).map fun t => Pseudo.expand (.str t)),
   (['L', 'O', 'A', 'D', 'T', 'E', 'X', 'T'], fun ts => (textOperand ts).map fun t => Pseudo.expand (.loadText t)),
   (['L', 'O', 'A', 'D', 'S', 'C', 'R', 'O', 'L', 'L'],
     fun ts => (allOperands (fieldOf 8) ts).map fun cs => Pseudo.expand (.loadScroll cs)),
   (['L', 'O', 'A', 'D', 'A', 'N', 'I', 'M'],
     fun ts => (allOperands (fieldOf 64) ts).map fun fs => Pseudo.expand (.loadAnim fs)),
   (['T', 'I', 'C', 'K', 'S'],
     fun ts => (oneOperand (fun t => match t with | .word cs => numberOf cs | _ => none) ts).map fun n =>
       Pseudo.expand (.ticks n)),
   (['R', 'E', 'N', 'D', 'E', 'R'], fun ts => if ts.isEmpty then some (Pseudo.expand (.render order)) else none)]

/-- The commands one line stands for: none for a blank or comment line, one for a command, the expansion for a pseudo-command; no
value where the line is no line of the syntax (R91, R92). -/
def assembleLine (order : List Cell) (line : List Char) : Option (List Instr) :=
  match lex none [] line with
  | some []               => some []
  | some (.word m :: ts)  => ((lineForms order).lookup m).bind fun form => form ts
  | _                     => none

/-- The command words of a line: `op ++ arg` with every field placed and every other bit 0 (R91). -/
def assembleWords (order : List Cell) (line : List Char) : Option (List CommandWord) :=
  (assembleLine order line).map fun is => is.map encode

end Sys2Proof.Machine
end

