-- ==== Sys2Proof/Tests/Slice0.lean ====
section
/-! SUPPORT. Tests. Every expected value is one the spec writes out (95_test_vectors.md or the example of a command rule), or is
computed by hand from the rule named. -/

namespace Sys2Proof.Tests

open Sys2Proof.Machine

-- The theorems of this file are many and small: one after another needs far fewer threads than all at once.
set_option Elab.async false

/-! Decoding: the words of spec/95_test_vectors.md sections 1.7, 2 and 3, and what R94 calls illegal. -/

theorem test_decode_glyph : decode 0x10000000000000041#68 = .ok (.glyph 0x41) := by decide
theorem test_decode_cols : decode 0x2000000000000003F#68 = .ok (.cols 0x3F) := by decide
theorem test_decode_map : decode 0x30000000000000607#68 = .ok (.map 6 7) := by decide
theorem test_decode_scrollin : decode 0x4000000000000006C#68 = .ok (.scrollin 0x6C) := by decide
theorem test_decode_replace : decode 0x56C9292FEFE820000#68 = .ok (.replace 0x6C9292FEFE820000) := by decide
theorem test_decode_tick : decode 0x60000000000000000#68 = .ok .tick := by decide
theorem test_decode_pixel : decode 0x70000000000000100#68 = .ok (.pixel 1 0) := by decide
theorem test_decode_rdfb : decode 0x80000000000000000#68 = .ok .rdfb := by decide
theorem test_decode_rdstat : decode 0x90000000000000000#68 = .ok .rdstat := by decide
theorem test_decode_stgclr : decode 0xA0000000000000000#68 = .ok .stgclr := by decide
theorem test_decode_stgcol : decode 0xB00000000000000FF#68 = .ok (.stgcol 0xFF) := by decide
theorem test_decode_stgfrm : decode 0xC3E7EC8C87E3E0000#68 = .ok (.stgfrm 0x3E7EC8C87E3E0000) := by decide
theorem test_decode_stgchar : decode 0xD0000000000000042#68 = .ok (.stgchar 0x42) := by decide
theorem test_decode_commit_scroll : decode 0xE0000000000000000#68 = .ok (.commit .scroll) := by decide
theorem test_decode_commit_animate : decode 0xE0000000000000001#68 = .ok (.commit .animate) := by decide
theorem test_decode_all_zeros : decode 0x00000000000000000#68 = .error .opcode := by decide
theorem test_decode_all_ones : decode 0xFFFFFFFFFFFFFFFFF#68 = .error .opcode := by decide
theorem test_decode_glyph_reserved : decode 0x10000000000000141#68 = .error .reservedBit := by decide
theorem test_decode_map_reserved : decode 0x30000000000010900#68 = .error .reservedBit := by decide
theorem test_decode_commit_reserved : decode 0xE0000000000000002#68 = .error .reservedBit := by decide
theorem test_decode_table_word : decodeTableWord 72 0xD0000000000000020 = some (.stgchar 0x20) := by decide
theorem test_decode_table_word_wide : decodeTableWord 72 0x110000000000000041 = none := by decide

/-! Well-formedness: one ill-formed term for each check. -/

theorem smoke_map_row : (Instr.map 256 0).wellFormed = false := by decide
theorem smoke_map_col : (Instr.map 0 256).wellFormed = false := by decide
theorem smoke_pixel_row : (Instr.pixel 256 0).wellFormed = false := by decide
theorem smoke_pixel_col : (Instr.pixel 0 256).wellFormed = false := by decide
theorem smoke_order_repeats : renderOrderWf (List.replicate 64 (0, 0)) = false := by decide
theorem smoke_order_short : renderOrderWf [(0, 0)] = false := by decide
theorem smoke_font_space : fontWf [(0x41#8, 0x3E7EC8C87E3E0000#64), (0x42#8, 0x6C9292FEFE820000#64)] = false := by decide
theorem smoke_font_a :
    fontWf [(0x20#8, 0#64), (0x41#8, 0x3E7EC8C87E3E0001#64), (0x42#8, 0x6C9292FEFE820000#64)] = false := by decide
theorem smoke_font_b : fontWf [(0x20#8, 0#64), (0x41#8, 0x3E7EC8C87E3E0000#64)] = false := by decide
theorem smoke_coord_map : coordMapWf (Vector.replicate 8 (Vector.replicate 8 ⟨0, 0⟩)) = false := by decide
theorem smoke_seq_max_low : seqMaxWf 8 = false := by decide
theorem smoke_seq_max_high : seqMaxWf 65536 = false := by decide
theorem smoke_mode_empty : defaultModeWf 256 ⟨.scroll, [], 0⟩ = false := by decide
theorem smoke_mode_long : defaultModeWf 9 ⟨.scroll, List.replicate 10 0, 0⟩ = false := by decide
theorem smoke_mode_cursor : defaultModeWf 256 ⟨.scroll, [0], 1⟩ = false := by decide
theorem this_hardware_admissible : Config.thisHardware.admissible = true := by decide +kernel

/-! The commands, one step each from a small state. -/

/-- Reset with a framebuffer. -/
def withFb (v : DisplayState) : State := { State.reset with fb := v }

/-- The response to a command word presented in a state. -/
def answer (s : State) (w : CommandWord) : Option Response :=
  match step (s.presentWord w) with
  | .next t => t.response
  | _       => none

/-- The state after a command word presented in a state; the state itself where the machine stops. -/
def after (s : State) (w : CommandWord) : State :=
  match step (s.presentWord w) with
  | .next t => t
  | _       => s

theorem test_glyph_a : answer .reset 0x10000000000000041#68 = some ⟨.ok, 0, 0x3E7EC8C87E3E0000⟩ := by decide
theorem test_glyph_missing : answer .reset 0x1000000000000003F#68 = some ⟨.ok, 0, 0xFF818181818181FF⟩ := by decide
theorem test_cols_b : answer .reset 0x20000000000000042#68 = some ⟨.ok, 8, 0x6C9292FEFE820000⟩ := by decide
theorem test_cols_space : answer .reset 0x20000000000000020#68 = some ⟨.ok, 1, 0⟩ := by decide
theorem test_map_rotation : answer .reset 0x30000000000000700#68 = some ⟨.ok, 0, 0x0007⟩ := by decide
theorem test_map_last : answer .reset 0x30000000000000607#68 = some ⟨.ok, 0, 0x0E00⟩ := by decide
theorem test_scrollin_drops_column_0 :
    (after (withFb 0x3E7EC8C87E3E0000) 0x4000000000000006C#68).fb = 0x7EC8C87E3E00006C#64 := by decide
theorem test_scrollin_drops_bit_63 :
    (after (withFb 0x8000000000000001) 0x40000000000000080#68).fb = 0x0000000000000180#64 := by decide
theorem test_replace : (after (withFb 0xFF) 0x56C9292FEFE820000#68).fb = 0x6C9292FEFE820000#64 := by decide
theorem test_rdfb : answer (withFb 0x6C9292FEFE820000) 0x80000000000000000#68 = some ⟨.ok, 0, 0x6C9292FEFE820000⟩ := by decide
theorem test_rdstat_reset : answer .reset 0x90000000000000000#68 = some ⟨.ok, 0, 0x0000000000010000⟩ := by decide
theorem test_rdstat_staging :
    answer { State.reset with stg := List.replicate 12 0, stgLen := 12, stgGlyph := true } 0x90000000000000000#68
      = some ⟨.ok, 0, 0x0002000C00010000⟩ := by decide
theorem test_pixel_lit : answer (withFb 0x3E7EC8C87E3E0000) 0x70000000000000100#68 = some ⟨.ok, 0, 0x0000000000010005⟩ := by
  decide
theorem test_pixel_bit_0 : answer (withFb 0x8000000000000001) 0x70000000000000007#68 = some ⟨.ok, 0, 0x0000000000010E06⟩ := by
  decide

/-- The `"AB"` mode of R155's example: 17 entries, the cursor at the last, which is `00`. -/
def scrollAtEnd : State :=
  { State.reset with fb := 0x006C9292FEFE8200, len := 17, seq := List.replicate 17 0, cursor := 16 }

theorem test_tick_scroll_wrap :
    let t := after scrollAtEnd 0x60000000000000000#68
    (t.fb, t.cursor, t.response) = (0x6C9292FEFE820000, 0, some ⟨.ok, 0, 1⟩) := by decide
theorem test_tick_scroll_low_byte :
    (after { State.reset with seq := [0x1234] } 0x60000000000000000#68).fb = 0x34#64 := by decide
theorem test_tick_animate :
    let t := after { State.reset with tag := .animate, len := 2, seq := [0x3E7EC8C87E3E0000, 0x6C9292FEFE820000] }
      0x60000000000000000#68
    (t.fb, t.cursor, t.response) = (0x3E7EC8C87E3E0000, 1, some ⟨.ok, 0, 0⟩) := by decide

/-- The staging buffer of R125's example after `STGCHAR 'A'`. -/
def stagedA : State := after .reset 0xD0000000000000041#68

theorem test_stgchar_first : (stagedA.stgLen, stagedA.stgGlyph, stagedA.response) = (8, true, some ⟨.ok, 8, 8⟩) := by decide
theorem test_stgchar_spacer :
    let t := after stagedA 0xD0000000000000042#68
    (t.response, t.stg.map columnOfEntry) =
      (some ⟨.ok, 9, 17⟩, [0x3E, 0x7E, 0xC8, 0xC8, 0x7E, 0x3E, 0, 0, 0, 0x6C, 0x92, 0x92, 0xFE, 0xFE, 0x82, 0, 0]) := by
  decide
theorem test_stgcol_clears_flag :
    let t := after stagedA 0xB0000000000000055#68
    (t.stgLen, t.stgGlyph, t.response) = (9, false, some ⟨.ok, 1, 9⟩) := by decide
theorem test_stgfrm : (after .reset 0xC3E7EC8C87E3E0000#68).stg = [0x3E7EC8C87E3E0000] := by decide
theorem test_stgclr :
    let t := after stagedA 0xA0000000000000000#68
    (t.stg, t.stgLen, t.stgGlyph) = ([], 0, false) := by decide
theorem test_commit :
    let t := after stagedA 0xE0000000000000001#68
    (t.tag, t.len, t.cursor, t.stgLen, t.stgGlyph, t.response) = (.animate, 8, 0, 0, false, some ⟨.ok, 0, 8⟩) := by decide
theorem test_commit_empty : after .reset 0xE0000000000000000#68 = { State.reset with response := some ⟨.errEmpty, 0, 0⟩ } := by
  decide

/-- A staging buffer at `SEQ_MAX`. -/
def stagingFull : State := { State.reset with stg := List.replicate 256 0, stgLen := 256 }

theorem test_err_full : answer stagingFull 0xB0000000000000001#68 = some ⟨.errFull, 0, 0⟩ := by decide +kernel

/-- The staging buffer of 95_test_vectors.md section 2.5 after `STGCHAR 'A'`, at `SEQ_MAX` = 9. -/
theorem test_err_full_is_whole :
    stgcharIn { Config.thisHardware with seqMax := 9 } 0x42 stagedA
      = .next { stagedA with response := some ⟨.errFull, 0, 0⟩ } := by rfl

/-! Faults, the halted state, reset. -/

/-- The state after `MAP 8, 0` (program P4). -/
def halted : State := after (withFb 0x3E7EC8C87E3E0000) 0x30000000000000800#68

theorem test_map_fault :
    halted = { withFb 0x3E7EC8C87E3E0000 with fault := true, fcode := 1, response := some ⟨.fltCoord, 0, 0⟩ } := by decide
theorem test_pixel_fault : answer .reset 0x70000000000000800#68 = some ⟨.fltCoord, 0, 0⟩ := by decide
theorem test_illegal_wins : (after .reset 0x30000000000010900#68).fcode = 2#4 := by decide
theorem test_halted_tick : after halted 0x60000000000000000#68 = { halted with response := some ⟨.fltHalted, 0, 0⟩ } := by decide
theorem test_halted_illegal : (after halted 0x00000000000000000#68).fcode = 1#4 := by decide
theorem test_reset_wins :
    step { halted with inputs := [⟨true, some 0x60000000000000000#68⟩] } = .next .reset := by rfl
theorem test_response_word : (Response.mk .fltHalted 0 0).word = 0xF00000000000000000#72 := by decide
theorem reset_inv : Inv State.reset := by decide +kernel

/-! The pure functions. -/

theorem test_trim_leading : trimmedColumns 0x00003E7EC8C87E3E = [0x3E, 0x7E, 0xC8, 0xC8, 0x7E, 0x3E] := by decide
theorem test_trim_keeps_inner : trimmedColumns 0x0000FF0000FF0000 = [0xFF, 0, 0, 0xFF, 0, 0] := by decide
theorem test_string_two_spaces : columnsForString .thisHardware [0x20, 0x20] = [0, 0, 0] := by decide
theorem test_string_a_space_b :
    columnsForString .thisHardware [0x41, 0x20, 0x42] =
      [0x3E, 0x7E, 0xC8, 0xC8, 0x7E, 0x3E, 0, 0, 0, 0, 0, 0x6C, 0x92, 0x92, 0xFE, 0xFE, 0x82, 0, 0] := by decide
theorem test_render_lit_count :
    ((render .thisHardware allCells 0x3E7EC8C87E3E0000).filter (·.2)).length = 28 := by decide +kernel
theorem test_led_bit_63 : led .thisHardware 0x8000000000000001 ⟨0, 7⟩ = some true := by decide +kernel
theorem test_set_col : setCol 0x3E7EC8C87E3E0000 7 0x6C = 0x3E7EC8C87E3E006C#64 := by decide
theorem test_to_binary_string :
    u64ToBinaryString 0x8000000000000001 = ['1'] ++ List.replicate 62 '0' ++ ['1'] := by decide +kernel
theorem test_of_binary_string_short : binaryStringToU64 ['1', '_', '0', 'x', '1'] = some 5 := by decide
theorem test_of_binary_string_long : binaryStringToU64 (List.replicate 65 '0') = none := by decide +kernel

/-! One tick of the owner (R205), from R155's example state. -/

/-- A board whose controller still shows something else. -/
def boardAtEnd : Board := { block := scrollAtEnd, controller := { written := [(⟨1, 1⟩, true)], shown := none } }

/-- The entries pushed are the render of `FB` after the `TICK`, and they are what is shown. -/
theorem test_owner_tick_pushes_the_render :
    (ownerTick .thisHardware ⟨allCells.reverse, true⟩ boardAtEnd).map (fun r => (r.1.block.fb, r.1.controller.shown)) =
      some (0x6C9292FEFE820000, some (render .thisHardware allCells 0x6C9292FEFE820000)) := by decide +kernel

/-- 1 `TICK`, 64 `PIXEL`s, clear-all, 64 set-ones, commit/flush, and the long sleep: the tick wraps a `Scroll` sequence (R208), whatever
the owner chooses for `Animate`. -/
theorem test_owner_tick_actions :
    (ownerTick .thisHardware ⟨allCells, true⟩ boardAtEnd).map (fun r => (r.2.length, r.2.head?, r.2.getLast?)) =
      some (132, some (.command .tick), some (.sleep .wrapPause)) ∧
    (ownerTick .thisHardware ⟨allCells, false⟩ boardAtEnd).map (fun r => r.2.getLast?) = some (some (.sleep .wrapPause)) ∧
    ownerTick .thisHardware ⟨[], true⟩ boardAtEnd = none := by decide +kernel

/-- The sleep by mode and `wrap`: in `Scroll` the long one exactly at the wrap; in `Animate` at the wrap as the owner chooses. -/
theorem test_sleep_after :
    sleepAfter .scroll false ⟨.ok, 0, 1⟩ = .wrapPause ∧ sleepAfter .scroll true ⟨.ok, 0, 0⟩ = .tickDelay ∧
    sleepAfter .animate true ⟨.ok, 0, 1⟩ = .wrapPause ∧ sleepAfter .animate false ⟨.ok, 0, 1⟩ = .tickDelay ∧
    sleepAfter .animate true ⟨.ok, 0, 0⟩ = .tickDelay := by decide

/-! The textual syntax: the examples of R91, a comment line, a pseudo-command. -/

theorem test_assemble_map : assembleLine [] ['M', 'A', 'P', ' ', '7', ',', ' ', '0'] = some [.map 7 0] := by decide
theorem test_assemble_quoted :
    assembleLine [] ['S', 'T', 'G', 'C', 'H', 'A', 'R', ' ', '\'', 'A', '\'', ' ', ';', 'x'] = some [.stgchar 0x41] := by decide
theorem test_assemble_hex :
    assembleWords [] ['S', 'C', 'R', 'O', 'L', 'L', 'I', 'N', ' ', '0', 'x', '3', 'E'] = some [0x4000000000000003E#68] := by decide
theorem test_assemble_commit :
    assembleLine [] ['C', 'O', 'M', 'M', 'I', 'T', ' ', 'S', 'C', 'R', 'O', 'L', 'L'] = some [.commit .scroll] := by decide
theorem test_assemble_loadtext :
    assembleLine [] ['L', 'O', 'A', 'D', 'T', 'E', 'X', 'T', ' ', '"', 'A', 'B', '"'] =
      some [.stgclr, .stgchar 0x41, .stgchar 0x42, .commit .scroll] := by decide
theorem test_assemble_comment : assembleLine [] [' ', ';', '\''] = some [] := by decide

/-! Witnesses: for every statement of Certificates/Slice0/Obligations.lean that has hypotheses, concrete states and operands that meet all
of them together, at the boundary values of each clause. The name is `witness_` and the statement's name. -/

/-- A configuration other than this hardware's: the least capacity, another box, one more character, a longer default mode. -/
def smallConfig : Config :=
  { font := Config.thisHardware.font ++ [(0x21#8, 0x00000000FF000000#64)]
    glyphMissing := 0xFFFFFFFFFFFFFFFF
    coordMap := Config.thisHardware.coordMap
    seqMax := 9
    defaultMode := ⟨.animate, List.replicate 9 1, 8⟩ }

/-- The active sequence at `SEQ_MAX`, the cursor at its last entry. -/
def seqFull : State := { State.reset with len := 256, seq := List.replicate 256 0x1FF, cursor := 255 }

/-- A staging buffer with a number of entries. -/
def stagedWith (n : Nat) (glyph : Bool) : State :=
  { State.reset with stg := List.replicate n 0, stgLen := BitVec.ofNat 16 n, stgGlyph := glyph }

/-- One entry short of `SEQ_MAX`. -/
def staged255 : State := stagedWith 255 false

/-- A spacer and eight columns just fit. -/
def staged247 : State := stagedWith 247 true

/-- A spacer and eight columns are one entry too many. -/
def staged248 : State := stagedWith 248 true

/-- The status of the answer to a command word presented in a state. -/
def status (s : State) (w : CommandWord) : Option Status := (answer s w).map Response.status

theorem witness_ResetInputRestoresTheResetState :
    ({ halted with inputs := [⟨true, some 0x60000000000000000#68⟩] } : State).inputs = [⟨true, some 0x60000000000000000#68⟩] ∧
    ({ halted with inputs := [⟨true, none⟩, ⟨false, none⟩] } : State).inputs = ⟨true, none⟩ :: [⟨false, none⟩] := by decide

theorem witness_NoCommandNothingHappens :
    State.reset.inputs = [] ∧
    ({ halted with inputs := [⟨false, none⟩] } : State).inputs = [⟨false, none⟩] := by decide

theorem witness_StepRunsTheDecodedCommand :
    (State.reset.presentWord 0x3000000000000FFFF#68).inputs = ⟨false, some 0x3000000000000FFFF#68⟩ :: State.reset.inputs ∧
    decode 0x3000000000000FFFF#68 = .ok (.map 255 255) := by decide

/-- One command of each constructor, the index operands at the ends of their fields. -/
def oneOfEach : List Instr :=
  [.glyph 0x41, .cols 0xFF, .map 255 0, .scrollin 0x80, .replace 0, .tick, .pixel 0 255, .rdfb, .rdstat, .stgclr, .stgcol 1,
   .stgfrm 2, .stgchar 0x42, .commit .animate]

theorem witness_PresentedCommandsTakeEffectInOrder : ∀ i ∈ oneOfEach, i.wellFormed = true := by decide

theorem witness_DecodeOfEncodeIsTheInstruction :
    (Instr.map 255 255).wellFormed = true ∧ (Instr.pixel 0 255).wellFormed = true ∧ (Instr.stgfrm (-1)).wellFormed = true := by
  decide

theorem witness_EncodeOfDecodeIsTheWord :
    decode 0x7000000000000FFFF#68 = .ok (.pixel 255 255) ∧ decode 0x5FFFFFFFFFFFFFFFF#68 = .ok (.replace (-1)) := by decide

theorem witness_DecoderAgreesWithTheOpcodeMap :
    decode 0xE0000000000000001#68 = .ok (.commit .animate) ∧ decode 0xE0000000000000002#68 = .error .reservedBit ∧
    decode 0xF0000000000000000#68 = .error .opcode ∧
    ∃ r ∈ opcodeMap, r.claims 0xE0000000000000001#68 = true := by decide

theorem witness_ResponseWordCarriesStatusCountAndData :
    (∃ s', step (State.reset.presentWord 0x60000000000000000#68) = .next s') ∧
    (∃ s' r, step (State.reset.presentWord 0xE0000000000000000#68) = .next s' ∧ s'.response = some r ∧ r.status ≠ .ok) :=
  ⟨⟨_, rfl⟩, _, _, rfl, rfl, by decide⟩

theorem witness_StatusCodesAreThoseOfTheTable :
    (∃ s', step (State.reset.presentWord 0x30000000000000800#68) = .next s' ∧ s'.fault = true ∧ s'.fcode = 1) ∧
    (∃ s', step (State.reset.presentWord 0#68) = .next s' ∧ s'.fault = true ∧ s'.fcode = 2) ∧ State.reset.fault = false :=
  ⟨⟨_, rfl, rfl, rfl⟩, ⟨_, rfl, rfl, rfl⟩, rfl⟩

theorem witness_GridIsTheBitOfEveryCell : renderOrderWf allCells = true ∧ renderOrderWf allCells.reverse = true := by decide +kernel

theorem witness_GlyphRomHoldsTheKnownEntries :
    smallConfig.admissible = true ∧ smallConfig.font.lookup 0x00#8 = none ∧ smallConfig.font.lookup 0xFF#8 = none := by
  decide +kernel

theorem witness_GlyphAnswersThePattern : State.reset.fault = false ∧ stagedA.fault = false := by decide

theorem witness_LeadingZeroColumnsAreTrimmed :
    glyphRom smallConfig 0x20 = 0 ∧ glyphRom smallConfig 0x21 ≠ 0 ∧ glyphRom smallConfig 0xFF ≠ 0 := by decide

theorem witness_ColsAnswersTheTrimmedColumns : State.reset.fault = false ∧ scrollAtEnd.fault = false := by decide

theorem witness_MapAnswersThePhysicalAddress :
    State.reset.fault = false ∧ (7 ≤ 7 ∧ 0 ≤ 7) ∧ (0 ≤ 7 ∧ 7 ≤ 7) := by decide

theorem witness_CoordinateOutOfRangeFaults :
    State.reset.fault = false ∧ (7 < 8 ∨ 7 < 0) ∧ (7 < 0 ∨ 7 < 255) ∧
    ∃ s', exec (.pixel 7 8) State.reset = .next s' ∧ s'.fault = true := ⟨rfl, by decide, by decide, _, rfl, rfl⟩

theorem witness_ScrollinShiftsTheFramebuffer : (withFb 0x8000000000000001).fault = false := by decide

theorem witness_ReplaceAdoptsTheFrame : (withFb 0xFF).fault = false := by decide

theorem witness_TickPlaysTheEntryAtTheCursor :
    (scrollAtEnd.fault = false ∧ scrollAtEnd.cursor.toNat < scrollAtEnd.len.toNat ∧ scrollAtEnd.tag = .scroll ∧
      scrollAtEnd.seq[scrollAtEnd.cursor.toNat]? = some 0) ∧
    (let s : State := { seqFull with tag := .animate }
     s.fault = false ∧ s.cursor.toNat < s.len.toNat ∧ s.tag = .animate ∧ s.seq[s.cursor.toNat]? = some 0x1FF) := by
  decide +kernel

theorem witness_TickAlwaysFindsItsEntry :
    (seqFull.fault = false ∧ ModeInv Config.thisHardware seqFull) ∧
    (let s : State := { State.reset with cursor := 1 }
     s.fault = false ∧ s.len.toNat ≤ s.cursor.toNat) ∧
    (let s : State := { State.reset with len := 2, cursor := 1 }
     s.fault = false ∧ s.seq.length ≤ s.cursor.toNat) := by decide +kernel

theorem witness_LengthOneSequenceRepeats :
    (State.reset.fault = false ∧ State.reset.len = 1 ∧ State.reset.seq = [0] ∧ State.reset.cursor = 0 ∧ State.reset.tag = .scroll) ∧
    (let s : State := { State.reset with tag := .animate, seq := [0xFF] }
     s.fault = false ∧ s.len = 1 ∧ s.seq = [0xFF] ∧ s.cursor = 0 ∧ s.tag = .animate) := by decide

theorem witness_StateAfterTicks :
    (State.reset.fault = false ∧ State.reset.cursor = 0 ∧ 1 ≤ State.reset.len.toNat ∧
      State.reset.seq.length = State.reset.len.toNat ∧ State.reset.tag = .scroll) ∧
    (let s : State := { seqFull with tag := .animate, cursor := 0 }
     s.fault = false ∧ s.cursor = 0 ∧ 1 ≤ s.len.toNat ∧ s.seq.length = s.len.toNat) := by decide +kernel

theorem witness_DisplayIsPeriodicOnceFilled :
    (let s : State := { scrollAtEnd with cursor := 0 }
     s.fault = false ∧ s.cursor = 0 ∧ 1 ≤ s.len.toNat ∧ s.seq.length = s.len.toNat ∧
      (s.tag = .animate → 1 ≤ 8) ∧ (s.tag = .scroll → 8 ≤ 8)) ∧
    (let s : State := { State.reset with tag := .animate, len := 2, seq := [1, 2] }
     s.fault = false ∧ s.cursor = 0 ∧ 1 ≤ s.len.toNat ∧ s.seq.length = s.len.toNat ∧
      (s.tag = .animate → 1 ≤ 1) ∧ (s.tag = .scroll → 8 ≤ 1)) := by decide

theorem witness_StgclrEmptiesTheStagingBuffer : stagedA.fault = false := by decide

theorem witness_StgcolAndStgfrmAppendOneEntry :
    (staged255.fault = false ∧ staged255.stgLen.toNat + 1 ≤ 256) ∧ (0xFF#64).toNat = (0xFF#8).toNat := by decide +kernel

theorem witness_StgcharAppendsTheCharacter :
    (staged247.fault = false ∧ staged247.stgGlyph = true ∧ staged247.stgLen.toNat + ([0] ++ columnsForChar Config.thisHardware 0x42).length ≤ 256) ∧
    (State.reset.fault = false ∧ State.reset.stgLen.toNat + ([] ++ columnsForChar Config.thisHardware 0x20).length ≤ 256) := by
  decide +kernel

theorem witness_AppendThatDoesNotFitIsRejectedWhole :
    stagingFull.fault = false ∧ 256 < stagingFull.stgLen.toNat + 1 ∧
    (staged248.fault = false ∧ staged248.stgGlyph = true ∧ 256 < staged248.stgLen.toNat + (1 + (columnsForChar Config.thisHardware 0x42).length)) := by decide +kernel

theorem witness_CommitInstallsTheStagingBuffer :
    (stagedA.fault = false ∧ stagedA.stgLen ≠ 0) ∧ (stagingFull.fault = false ∧ stagingFull.stgLen ≠ 0) := by decide

theorem witness_CommitOfAnEmptyBufferIsRejected : State.reset.fault = false ∧ State.reset.stgLen = 0 := by decide

theorem witness_FirstTickAfterCommitPlaysEntryZero :
    stagedA.fault = false ∧ stagedA.stg = 0x3E :: [0x7E, 0xC8, 0xC8, 0x7E, 0x3E, 0, 0] ∧ stagedA.stgLen.toNat = stagedA.stg.length := by
  decide

theorem witness_StagingIsInvisibleUntilCommit :
    let is : List Instr := [.stgclr, .tick, .stgchar 0x41, .stgcol 1, .scrollin 2, .stgfrm 3, .rdstat]
    (∀ i ∈ is, i.mnemonic ≠ "COMMIT") ∧ (runOk Config.thisHardware is State.reset).isSome = true := by decide

theorem witness_StagingATextBuildsItsColumns :
    smallConfig.admissible = true ∧ State.reset.fault = false ∧
    (columnsForString smallConfig (List.replicate 5 0x20)).length ≤ smallConfig.seqMax ∧
    (columnsForString smallConfig []).length ≤ smallConfig.seqMax := by decide +kernel

theorem witness_RdfbAnswersTheFramebuffer : (withFb 0xFF).fault = false := by decide

theorem witness_RdstatAnswersTheStatusWord : State.reset.fault = false ∧ stagedA.fault = false := by decide

theorem witness_PixelAnswersOneRenderEntry : (withFb 0x8000000000000001).fault = false := by decide

theorem witness_RenderCoversEveryWiredAddressOnce :
    smallConfig.admissible = true ∧ renderOrderWf allCells.reverse = true := by decide +kernel

theorem witness_LedAtAPhysicalAddress :
    wired ⟨0, 7⟩ = true ∧ wired ⟨14, 6⟩ = true ∧ wired ⟨15, 0⟩ = false ∧ wired ⟨1, 7⟩ = false := by decide

theorem witness_RenderCommandsAnswerTheRender :
    renderOrderWf allCells = true ∧ (withFb 0x3E7EC8C87E3E0000).fault = false := by decide +kernel

theorem witness_PushedPictureIsTheFramebuffer :
    renderOrderWf allCells = true ∧ renderOrderWf allCells.reverse = true ∧ boardAtEnd.block.fault = false ∧
    ModeInv Config.thisHardware boardAtEnd.block := by
  decide +kernel

theorem witness_IllegalCommandWordFaults :
    State.reset.fault = false ∧
    (State.reset.presentWord 0x10000000000000100#68).inputs = ⟨false, some 0x10000000000000100#68⟩ :: State.reset.inputs ∧
    (∀ row ∈ opcodeMap, row.claims 0x10000000000000100#68 = false) ∧ (∀ row ∈ opcodeMap, row.claims 0#68 = false) ∧
    (∀ row ∈ opcodeMap, row.claims 0xFFFFFFFFFFFFFFFFF#68 = false) := by decide

theorem witness_HaltedBlockIgnoresEveryCommand :
    halted.fault = true ∧ (halted.presentWord 0#68).inputs = ⟨false, some 0#68⟩ :: halted.inputs := by decide

theorem witness_OnlyResetLeavesTheHaltedState :
    halted.fault = true ∧ (∃ s', step { halted with inputs := [⟨true, none⟩] } = .next s') ∧
    (∃ s', step (halted.presentWord 0x60000000000000000#68) = .next s') := ⟨rfl, ⟨_, rfl⟩, _, rfl⟩

theorem witness_ChecksAreMadeInOrder :
    ({ halted with inputs := [⟨true, some 0#68⟩] } : State).inputs = [⟨true, some 0#68⟩] ∧
    ModeInv Config.thisHardware halted ∧ ModeInv Config.thisHardware State.reset ∧ ModeInv Config.thisHardware stagingFull ∧
    ModeInv Config.thisHardware seqFull ∧ ModeInv Config.thisHardware staged247 ∧ ModeInv Config.thisHardware staged248 := by
  decide +kernel

/-- The same, at the boundary values of each check: the words and the statuses R230 gives them. -/
theorem witness_ChecksAreMadeInOrder_boundaries :
    status State.reset 0x30000000000000707#68 = some .ok ∧ status State.reset 0x30000000000000800#68 = some .fltCoord ∧
    status State.reset 0x70000000000000707#68 = some .ok ∧ status State.reset 0x70000000000000008#68 = some .fltCoord ∧
    status State.reset 0x30000000000010800#68 = some .fltIllegal ∧ status halted 0x30000000000010800#68 = some .fltHalted ∧
    status State.reset 0xE0000000000000000#68 = some .errEmpty ∧ status stagedA 0xE0000000000000000#68 = some .ok ∧
    status staged255 0xB0000000000000001#68 = some .ok ∧ status stagingFull 0xB0000000000000001#68 = some .errFull ∧
    status staged255 0xC0000000000000001#68 = some .ok ∧ status stagingFull 0xC0000000000000001#68 = some .errFull ∧
    status staged247 0xD0000000000000042#68 = some .ok ∧ status staged248 0xD0000000000000042#68 = some .errFull := by
  decide +kernel

theorem witness_FailingCommandsHaveNoPartialEffect :
    (∃ s' r, step (State.reset.presentWord 0xE0000000000000000#68) = .next s' ∧ s'.response = some r ∧
      r.status.outcomeClass = .reject) ∧
    (∃ s' r, step (halted.presentWord 0x60000000000000000#68) = .next s' ∧ s'.response = some r ∧
      r.status.outcomeClass = .ignored) ∧
    (∃ s' r, step (State.reset.presentWord 0x70000000000000008#68) = .next s' ∧ s'.response = some r ∧
      r.status.outcomeClass = .fault) :=
  ⟨⟨_, _, rfl, rfl, rfl⟩, ⟨_, _, rfl, rfl, rfl⟩, _, _, rfl, rfl, rfl⟩

theorem witness_OnlyTheNamedCommandsWriteEachPiece :
    (∃ t, exec (.replace 1) State.reset = .next t ∧ t.fb ≠ State.reset.fb) ∧
    (∃ t, exec (.commit .animate) stagedA = .next t ∧ t.tag ≠ stagedA.tag) ∧
    (∃ t, exec .tick scrollAtEnd = .next t ∧ t.cursor ≠ scrollAtEnd.cursor) ∧
    (∃ t, exec (.stgcol 1) stagedA = .next t ∧ t.stgGlyph ≠ stagedA.stgGlyph) ∧
    (∃ t, exec (.map 8 0) State.reset = .next t ∧ t.fault ≠ State.reset.fault) :=
  ⟨⟨_, rfl, by decide⟩, ⟨_, rfl, by decide⟩, ⟨_, rfl, by decide⟩, ⟨_, rfl, by decide⟩, _, rfl, by decide⟩

theorem witness_FramebufferChangesOnlyByScrollOrReplace :
    (∃ t, step (State.reset.presentWord 0x40000000000000001#68) = .next t ∧ t.fb ≠ State.reset.fb) ∧
    (∃ t, step (State.reset.presentWord 0x50000000000000001#68) = .next t ∧ t.fb ≠ State.reset.fb) ∧
    (∃ t, step ((withFb 1).presentWord 0x60000000000000000#68) = .next t ∧ t.fb ≠ (withFb 1).fb) ∧
    (∃ t, step { withFb 1 with inputs := [⟨true, none⟩] } = .next t ∧ t.fb ≠ (withFb 1).fb) :=
  ⟨⟨_, rfl, by decide⟩, ⟨_, rfl, by decide⟩, ⟨_, rfl, by decide⟩, _, rfl, by decide⟩

theorem witness_ReadsArePureAndRepeatable :
    ∀ i ∈ [Instr.glyph 0, .cols 0xFF, .map 7 7, .pixel 7 7, .rdfb, .rdstat],
      i.mnemonic ∈ ["GLYPH", "COLS", "MAP", "PIXEL", "RDFB", "RDSTAT"] ∧
      ∃ s' r, exec i stagedA = .next s' ∧ s'.response = some r ∧ r.status = .ok := by
  simp only [List.forall_mem_cons, List.not_mem_nil, false_implies, implies_true, and_true]
  refine ⟨⟨by decide, ?_⟩, ⟨by decide, ?_⟩, ⟨by decide, ?_⟩, ⟨by decide, ?_⟩, ⟨by decide, ?_⟩, ⟨by decide, ?_⟩⟩ <;>
    exact ⟨_, _, rfl, rfl, rfl⟩

theorem witness_EveryStepKeepsTheInvariant :
    Inv halted ∧ (∃ s', step (halted.presentWord 0#68) = .next s') ∧ Inv (halted.presentWord 0#68) ∧
    (∃ s', step (State.reset.presentWord 0x60000000000000000#68) = .next s') := ⟨by decide +kernel, ⟨_, rfl⟩, by decide +kernel, _, rfl⟩

theorem witness_EveryAdmissibleConfigurationRunsForever :
    smallConfig.admissible = true ∧ InvIn smallConfig (State.resetIn smallConfig) := by decide +kernel

end Sys2Proof.Tests
end

section
/-! SUPPORT. What a running command does, how it ends and what status it answers, in the terms of `Effect` (Laws/Step.lean). -/

namespace Sys2Proof.Machine

/-! The configured machine at this hardware's configuration (R6, R116). -/

theorem exec_eq_execIn : exec = execIn Config.thisHardware := by
  funext i s
  cases i <;> rfl

theorem step_eq_stepIn (s : State) : step s = stepIn Config.thisHardware s := by
  rw [step, stepIn, exec_eq_execIn]

/-! A command of a running block: its outcome is exactly its `Effect`. -/

/-- The converse of `execIn_next`: a running block answers the state its command's effect names. -/
theorem execIn_of_effect {c : Config} {i : Instr} {s s' : State} (hf : s.fault = false) (he : Effect c s i s') :
    execIn c i s = .next s' := by
  cases he <;> simp only [execIn, glyphIn, colsIn, mapIn, execScrollin, execReplace, replaceFrame, execTick, pixelIn, execRdfb,
    execRdstat, execStgclr, stgcolIn, stgfrmIn, stgcharIn, execCommit, whenRunning_running hf]
  case map h | pixel h | tick h => simp only [h]
  case mapFault h | pixelFault h => simp only [cellOfOperands_outside h]
  case commitEmpty h => exact if_pos h
  case commit h => exact if_neg h

theorem exec_of_effect {i : Instr} {s s' : State} (hf : s.fault = false) (he : Effect Config.thisHardware s i s') :
    exec i s = .next s' := by
  rw [exec_eq_execIn, execIn_of_effect hf he]

/-- R26's invariant gives the cursor its entry, so `TICK` never stops (R53, R59). -/
theorem currentEntry_of_modeInv {c : Config} {s : State} (h : ModeInv c s) : ∃ e, s.currentEntry = some e := by
  obtain ⟨hseq, -, -, hcur⟩ := h
  have hlt : s.cursor.toNat < s.seq.length := hseq ▸ hcur
  exact ⟨_, currentEntry_some.mpr ⟨hcur, List.getElem?_eq_getElem hlt⟩⟩

/-- Every command has an effect in every state that keeps the Display Mode's invariant. -/
theorem exists_effect {c : Config} {s : State} (h : ModeInv c s) (i : Instr) : ∃ s', Effect c s i s' := by
  cases i with
  | map row k =>
    cases hc : cellOfOperands row k with
    | none => exact ⟨_, .mapFault (cellOfOperands_none hc)⟩
    | some cell => exact ⟨_, .map hc⟩
  | pixel row k =>
    cases hc : cellOfOperands row k with
    | none => exact ⟨_, .pixelFault (cellOfOperands_none hc)⟩
    | some cell => exact ⟨_, .pixel hc⟩
  | tick =>
    obtain ⟨e, he⟩ := currentEntry_of_modeInv h
    exact ⟨_, .tick he⟩
  | commit tag =>
    by_cases h0 : s.stgLen = 0
    · exact ⟨_, .commitEmpty tag h0⟩
    · exact ⟨_, .commit tag h0⟩
  | _ => exact ⟨_, by constructor⟩

/-- No command stops in a state that keeps the Display Mode's invariant. -/
theorem execIn_progress {c : Config} {s : State} (h : ModeInv c s) (i : Instr) : ∃ s', execIn c i s = .next s' := by
  cases hf : s.fault
  · obtain ⟨s', he⟩ := exists_effect h i
    exact ⟨s', execIn_of_effect hf he⟩
  · exact ⟨_, execIn_halted c i hf⟩

/-! A word on the port. -/

theorem step_presentWord (s : State) (w : CommandWord) : step (s.presentWord w) = serveWord (execIn Config.thisHardware) w s := by
  rw [step_eq_stepIn, stepIn, serveNext_input (presentWord_inputs s w), serveInput_word]
  rfl

theorem serveWord_halted {c : Config} {w : CommandWord} {s : State} (hf : s.fault = true) :
    serveWord (execIn c) w s = .next (ignoreHalted s) := by
  cases hd : decode w with
  | error e => rw [serveWord_illegal hd, whenRunning_halted hf]
  | ok i => rw [serveWord_legal hd, execIn_halted c i hf]

/-- No command word stops the port in a state that keeps the Display Mode's invariant. -/
theorem serveWord_progress {c : Config} {s : State} (h : ModeInv c s) (w : CommandWord) :
    ∃ s', serveWord (execIn c) w s = .next s' := by
  cases hd : decode w with
  | ok i => rw [serveWord_legal hd]; exact execIn_progress h i
  | error e =>
    rw [serveWord_illegal hd]
    cases hf : s.fault
    · exact ⟨_, whenRunning_running hf⟩
    · exact ⟨_, whenRunning_halted hf⟩

/-! How a command ends. -/

/-- The three ways a command of a running block ends (R9): `ok`, a reject that leaves the state, a fault. -/
inductive Ending (s : State) : State → Prop
  | ok (cnt : BitVec 4) (data : BitVec 64) (t : State) (hf : t.fault = s.fault) (hc : t.fcode = s.fcode) :
      Ending s (respondOk cnt data t)
  | reject (st : Status) (h : st.outcomeClass = .reject) : Ending s (reject st s)
  | fault (cause : Cause) : Ending s (raiseFault cause s)

theorem appendCommand_ending (n : Nat) (new : List Entry) (g : Bool) (s : State) : Ending s (appendCommand n new g s) := by
  obtain ⟨-, h⟩ | ⟨-, h⟩ := appendCommand_cases n new g s <;> rw [h]
  · exact .reject _ rfl
  · exact .ok _ _ _ rfl rfl

theorem Effect.ending {c : Config} {i : Instr} {s s' : State} (he : Effect c s i s') : Ending s s' := by
  cases he with
  | mapFault h | pixelFault h => exact .fault _
  | commitEmpty tag h => exact .reject _ rfl
  | stgcol _ | stgfrm _ | stgchar _ => exact appendCommand_ending ..
  | _ => exact .ok _ _ _ rfl rfl

/-- A word served by a running block ends in one of the three ways too: an illegal word is a fault. -/
theorem serveWord_ending {c : Config} {w : CommandWord} {s s' : State} (hf : s.fault = false)
    (h : serveWord (execIn c) w s = .next s') : Ending s s' := by
  cases hd : decode w with
  | error e =>
    rw [serveWord_illegal hd, whenRunning_running hf] at h
    cases h
    exact .fault _
  | ok i =>
    rw [serveWord_legal hd] at h
    obtain ⟨hh, -⟩ | ⟨-, he⟩ := execIn_next h
    · rw [hf] at hh; cases hh
    · exact he.ending

theorem Cause.status_outcomeClass (c : Cause) : c.status.outcomeClass = .fault := by cases c <;> rfl

theorem Cause.status_code (c : Cause) : c.status.code = 0x8#4 + c.fcode := by cases c <;> rfl

theorem Cause.status_code_ge (c : Cause) : 8 ≤ c.status.code.toNat := by cases c <;> decide

theorem Cause.fcode_cases (c : Cause) : c.fcode = 1#4 ∨ c.fcode = 2#4 := by
  cases c
  · exact .inl rfl
  · exact .inr rfl

theorem Status.code_lt_of_reject {st : Status} (h : st.outcomeClass = .reject) : st.code.toNat < 8 := by
  cases st with
  | errEmpty | errFull => decide
  | _ => cases h

/-- A running block is halted by a command only through a fault of that command. -/
theorem Ending.halts {s s' : State} (h : Ending s s') (hf : s.fault = false) (hf' : s'.fault = true) :
    ∃ cause, s' = raiseFault cause s := by
  cases h with
  | ok cnt data t ht _ => rw [respondOk_fault, ht, hf] at hf'; cases hf'
  | reject st _ => rw [reject_fault, hf] at hf'; cases hf'
  | fault cause => exact ⟨cause, rfl⟩

/-! The status of a command of a running block. -/

theorem columnsForChar_length (c : Config) (ch : CharCode) :
    1 ≤ (columnsForChar c ch).length ∧ (columnsForChar c ch).length ≤ 8 :=
  trimmedColumns_length _

theorem stagedColumns_length (c : Config) (g : Bool) (ch : CharCode) :
    (stagedColumns c g ch).length = (if g then 1 else 0) + (columnsForChar c ch).length := by
  cases g <;> simp [stagedColumns, Nat.add_comm]

/-- The first check of R230 that applies to a legal command of a running block, as a status (steps 4 and 5). -/
def checkStatus (c : Config) (s : State) : Instr → Status
  | .map row k    => if 7 < row ∨ 7 < k then .fltCoord else .ok
  | .pixel row k  => if 7 < row ∨ 7 < k then .fltCoord else .ok
  | .commit _     => if s.stgLen = 0 then .errEmpty else .ok
  | .stgcol _     => if c.seqMax < s.stgLen.toNat + 1 then .errFull else .ok
  | .stgfrm _     => if c.seqMax < s.stgLen.toNat + 1 then .errFull else .ok
  | .stgchar ch   =>
    if c.seqMax < s.stgLen.toNat + ((if s.stgGlyph then 1 else 0) + (columnsForChar c ch).length) then .errFull else .ok
  | _             => .ok

theorem appendCommand_status (n : Nat) (new : List Entry) (g : Bool) (s : State) :
    ∃ r, (appendCommand n new g s).response = some r ∧
      r.status = if n < s.stgLen.toNat + new.length then .errFull else .ok := by
  obtain ⟨hn, h⟩ | ⟨hn, h⟩ := appendCommand_cases n new g s <;> rw [h]
  · exact ⟨_, rfl, (if_pos hn).symm⟩
  · exact ⟨_, rfl, (if_neg (Nat.not_lt.mpr hn)).symm⟩

theorem cellOfOperands_in_range {row k : Nat} {cell : Cell} (h : cellOfOperands row k = some cell) :
    ¬ (7 < row ∨ 7 < k) := by
  intro hout
  rw [cellOfOperands_outside hout] at h
  cases h

theorem Effect.status {c : Config} {i : Instr} {s s' : State} (he : Effect c s i s') :
    ∃ r, s'.response = some r ∧ r.status = checkStatus c s i := by
  cases he with
  | map h | pixel h => exact ⟨_, rfl, (if_neg (cellOfOperands_in_range h)).symm⟩
  | mapFault h | pixelFault h => exact ⟨_, rfl, (if_pos h).symm⟩
  | commitEmpty tag h => exact ⟨_, rfl, (if_pos h).symm⟩
  | commit tag h => exact ⟨_, rfl, (if_neg h).symm⟩
  | stgcol _ | stgfrm _ => exact appendCommand_status ..
  | stgchar ch =>
    have h := appendCommand_status c.seqMax ((stagedColumns c s.stgGlyph ch).map entryOfColumn) true s
    rwa [List.length_map, stagedColumns_length] at h
  | _ => exact ⟨_, rfl, rfl⟩

end Sys2Proof.Machine
end

section
/-! SUPPORT. The invariant of the block under an admissible configuration: reset has it, every operation keeps it, and a step
answers. -/

namespace Sys2Proof.Machine

theorem admissible_seqMax {c : Config} (h : c.admissible = true) : 9 ≤ c.seqMax ∧ c.seqMax ≤ 65535 := by
  simp only [Config.admissible, seqMaxWf, Bool.and_eq_true, decide_eq_true_eq] at h
  obtain ⟨⟨-, hseqMax⟩, -⟩ := h
  exact hseqMax

theorem admissible_defaultMode {c : Config} (h : c.admissible = true) :
    1 ≤ c.defaultMode.entries.length ∧ c.defaultMode.entries.length ≤ c.seqMax ∧
      c.defaultMode.cursor.toNat < c.defaultMode.entries.length := by
  simp only [Config.admissible, defaultModeWf, Bool.and_eq_true, decide_eq_true_eq] at h
  obtain ⟨-, ⟨hpos, hfit⟩, hcur⟩ := h
  exact ⟨hpos, hfit, hcur⟩

theorem resetIn_modeInv {c : Config} (h : c.admissible = true) : ModeInv c (State.resetIn c) := by
  obtain ⟨-, hmax⟩ := admissible_seqMax h
  obtain ⟨hpos, hfit, hcur⟩ := admissible_defaultMode h
  have hlen : (State.resetIn c).len.toNat = c.defaultMode.entries.length := by
    simp only [State.resetIn, BitVec.toNat_ofNat]
    omega
  exact ⟨hlen.symm, hlen ▸ hpos, hlen ▸ hfit, hlen ▸ hcur⟩

theorem stagingInv_of_empty {c : Config} {s : State} (hstg : s.stg = []) (hlen : s.stgLen = 0) (hglyph : s.stgGlyph = false) :
    StagingInv c s := by
  simp [StagingInv, SeqMemory.wf, hstg, hlen, hglyph]

theorem resetIn_inv {c : Config} (h : c.admissible = true) : InvIn c (State.resetIn c) :=
  ⟨resetIn_modeInv h, stagingInv_of_empty rfl rfl rfl, ⟨fun _ => rfl, nofun⟩, nofun⟩

/-! The Display Mode and the staging buffer. -/

theorem appendCommand_modeInv {c : Config} {s : State} {n : Nat} {new : List Entry} {g : Bool} (h : ModeInv c s) :
    ModeInv c (appendCommand n new g s) := by
  obtain ⟨-, ha⟩ | ⟨-, ha⟩ := appendCommand_cases n new g s <;> rw [ha] <;> exact h

theorem advance_modeInv {c : Config} {s : State} {e : Entry} (h : ModeInv c s) : ModeInv c (s.advance e) := by
  obtain ⟨hseq, hpos, hmax, -⟩ := h
  have hne : s.len ≠ 0 := by
    intro h0
    rw [h0] at hpos
    cases hpos
  refine ⟨hseq, hpos, hmax, ?_⟩
  rw [advance_cursor, advance_len, nextCursor_toNat _ hne]
  exact Nat.mod_lt _ hpos

theorem install_modeInv {c : Config} {s : State} {tag : ModeTag} (h : StagingInv c s) (hne : s.stgLen ≠ 0) :
    ModeInv c (s.install tag) := by
  obtain ⟨hstg, hmax, -⟩ := h
  have hpos : 0 < s.stgLen.toNat := Nat.pos_of_ne_zero fun h0 => hne (BitVec.eq_of_toNat_eq h0)
  exact ⟨hstg, hpos, hmax, hpos⟩

theorem appendCommand_stagingInv {c : Config} {s : State} {new : List Entry} {g : Bool} (hmax : c.seqMax ≤ 65535)
    (hg : g = true → 1 ≤ new.length) (h : StagingInv c s) : StagingInv c (appendCommand c.seqMax new g s) := by
  obtain ⟨-, ha⟩ | ⟨hfit, ha⟩ := appendCommand_cases c.seqMax new g s <;> rw [ha]
  · exact h
  · obtain ⟨hstg, -, -⟩ := h
    have hfit16 := hfit.trans hmax
    have hlen := appendStg_stgLen_toNat (g := g) hfit16
    exact ⟨appendStg_wf (g := g) hstg hfit16, hlen.trans_le hfit, fun ht => hlen ▸ Nat.le_add_left_of_le (hg ht)⟩

theorem Effect.modeInv {c : Config} {i : Instr} {s s' : State} (he : Effect c s i s') (hm : ModeInv c s)
    (hst : StagingInv c s) : ModeInv c s' := by
  cases he with
  | @tick e _ => exact advance_modeInv (e := e) hm
  | commit tag h => exact install_modeInv (tag := tag) hst h
  | stgcol _ | stgfrm _ | stgchar _ => exact appendCommand_modeInv hm
  | _ => exact hm

theorem Effect.stagingInv {c : Config} {i : Instr} {s s' : State} (he : Effect c s i s') (hmax : c.seqMax ≤ 65535)
    (h : StagingInv c s) : StagingInv c s' := by
  cases he with
  | stgclr | commit _ _ => exact stagingInv_of_empty rfl rfl rfl
  | stgcol _ | stgfrm _ => exact appendCommand_stagingInv hmax nofun h
  | stgchar ch =>
    refine appendCommand_stagingInv hmax (fun _ => ?_) h
    rw [List.length_map, stagedColumns_length]
    exact Nat.le_add_left_of_le (columnsForChar_length c ch).1
  | _ => exact h

/-! The latch and the response. -/

theorem raiseFault_latchInv (cause : Cause) (s : State) : LatchInv (raiseFault cause s) :=
  ⟨nofun, fun _ => cause.fcode_cases⟩

theorem Ending.latchInv {s s' : State} (h : Ending s s') (hl : LatchInv s) : LatchInv s' := by
  cases h with
  | ok cnt data t hf hc => simpa [LatchInv, hf, hc] using hl
  | reject st _ => exact hl
  | fault cause => exact raiseFault_latchInv cause s

theorem responseInv_of_response {s : State} {r : Response} (h : s.response = some r)
    (hbare : r.status ≠ .ok → r.cnt = 0 ∧ r.data = 0) (hcode : s.fault = true ↔ 8 ≤ r.status.code.toNat) :
    ResponseInv s := by
  intro r' hr'
  rw [h] at hr'
  cases hr'
  exact ⟨hbare, hcode⟩

theorem Ending.responseInv {s s' : State} (h : Ending s s') (hf : s.fault = false) : ResponseInv s' := by
  cases h with
  | ok cnt data t ht _ => exact responseInv_of_response rfl (absurd rfl) (iff_of_false (by simp [ht, hf]) (by simp [Status.code]))
  | reject st hst =>
    have hcode : ¬ 8 ≤ st.code.toNat := Nat.not_le.mpr (Status.code_lt_of_reject hst)
    exact responseInv_of_response rfl (fun _ => ⟨rfl, rfl⟩) (iff_of_false (by simp [hf]) hcode)
  | fault cause => exact responseInv_of_response rfl (fun _ => ⟨rfl, rfl⟩) (iff_of_true rfl cause.status_code_ge)

/-! The step. -/

theorem ignoreHalted_inv {c : Config} {s : State} (h : InvIn c s) (hf : s.fault = true) : InvIn c (ignoreHalted s) := by
  obtain ⟨hmode, hstg, hlatch, -⟩ := h
  exact ⟨hmode, hstg, hlatch, responseInv_of_response rfl (fun _ => ⟨rfl, rfl⟩) (iff_of_true hf (by decide))⟩

theorem execIn_keeps_inv {c : Config} {i : Instr} {s s' : State} (hmax : c.seqMax ≤ 65535) (h : InvIn c s)
    (he : execIn c i s = .next s') : InvIn c s' := by
  obtain ⟨hf, rfl⟩ | ⟨hf, he⟩ := execIn_next he
  · exact ignoreHalted_inv h hf
  · obtain ⟨hmode, hstg, hlatch, -⟩ := h
    exact ⟨he.modeInv hmode hstg, he.stagingInv hmax hstg, he.ending.latchInv hlatch, he.ending.responseInv hf⟩

theorem illegalCmd_keeps_inv {c : Config} {s s' : State} (h : InvIn c s)
    (he : whenRunning s (fun s => .next (raiseFault .illegalCmd s)) = .next s') : InvIn c s' := by
  obtain ⟨hf, rfl⟩ | ⟨hf, he⟩ := whenRunning_next he
  · exact ignoreHalted_inv h hf
  · cases he
    obtain ⟨hmode, hstg, -, -⟩ := h
    exact ⟨hmode, hstg, raiseFault_latchInv .illegalCmd s, (Ending.fault .illegalCmd).responseInv hf⟩

/-- The coming inputs are no part of the invariant. -/
theorem InvIn.withInputs {c : Config} {s : State} (h : InvIn c s) (rest : List PortInput) :
    InvIn c { s with inputs := rest } := h

theorem applyReset_inv {c : Config} (h : c.admissible = true) (s : State) : InvIn c (applyReset c s) :=
  InvIn.withInputs (resetIn_inv h) s.inputs

/-- Every step under an admissible configuration keeps the invariant. -/
theorem stepIn_keeps_inv {c : Config} {s s' : State} (hc : c.admissible = true) (h : InvIn c s)
    (hs : stepIn c s = .next s') : InvIn c s' := by
  obtain ⟨-, hmax⟩ := admissible_seqMax hc
  obtain ⟨-, rfl⟩ | ⟨p, rest, -, hserve⟩ := serveNext_next hs
  · exact h
  · obtain ⟨-, rfl⟩ | ⟨-, -, rfl⟩ | ⟨-, w, -, ⟨e, -, hi⟩ | ⟨i, -, hi⟩⟩ := hserve
    · exact applyReset_inv hc _
    · exact h.withInputs rest
    · exact illegalCmd_keeps_inv (h.withInputs rest) hi
    · exact execIn_keeps_inv hmax (h.withInputs rest) hi

/-- A step answers a next state wherever the Display Mode's invariant holds. -/
theorem stepIn_progress {c : Config} {s : State} (h : ModeInv c s) : ∃ s', stepIn c s = .next s' := by
  unfold stepIn
  match hi : s.inputs with
  | [] => exact ⟨s, serveNext_idle hi⟩
  | ⟨true, _⟩ :: _ => exact ⟨_, serveNext_input hi⟩
  | ⟨false, none⟩ :: _ => exact ⟨_, serveNext_input hi⟩
  | ⟨false, some w⟩ :: rest =>
    rw [serveNext_input hi, serveInput_word]
    exact serveWord_progress (s := { s with inputs := rest }) h w

end Sys2Proof.Machine
end

section
/-! PROOFS. The statements about the scope of the block: its configurations, its statuses and the order of its checks. -/

namespace Sys2Proof.Proofs

open Sys2Proof.Machine

/-- Settles O60: `stepIn_progress` gives the next state and `stepIn_keeps_inv` its invariant. -/
theorem everyAdmissibleConfigurationRunsForever : Obligations.EveryAdmissibleConfigurationRunsForever := by
  intro c hc
  refine ⟨resetIn_inv hc, fun s hinv => ?_⟩
  have ⟨hmode, _⟩ := hinv
  obtain ⟨s', hs⟩ := stepIn_progress hmode
  exact ⟨s', hs, stepIn_keeps_inv hc hinv hs⟩

/-- Settles O13: a running block is halted only by `raiseFault`, whose status is `0x8` plus its cause's code. -/
theorem statusCodesAreThoseOfTheTable : Obligations.StatusCodesAreThoseOfTheTable := by
  refine ⟨fun st => by cases st <;> decide, fun s s' w hf hs hf' => ?_⟩
  rw [step_presentWord] at hs
  obtain ⟨cause, rfl⟩ := (serveWord_ending hf hs).halts hf hf'
  exact ⟨cause.fcode_cases, _, rfl, cause.status_outcomeClass, cause.status_code⟩

/-- Settles O34: both commands are the append of the one entry `v`, which fits. -/
theorem stgcolAndStgfrmAppendOneEntry : Obligations.StgcolAndStgfrmAppendOneEntry := by
  intro i v s hf hfit hi
  have hrun : exec i s = .next (appendCommand 256 [v] false s) := by
    obtain ⟨col8, rfl, hv⟩ | rfl := hi
    · have hcol : v = entryOfColumn col8 := by
        apply BitVec.eq_of_toNat_eq
        simp only [entryOfColumn, BitVec.toNat_setWidth, hv]
        omega
      rw [hcol]
      exact exec_of_effect hf (.stgcol col8)
    · exact exec_of_effect hf (.stgfrm v)
  rw [appendCommand_fits (new := [v]) hfit] at hrun
  exact ⟨_, hrun, appendStg_stgLen_toNat (new := [v]) (g := false) (by simp only [List.length_singleton]; omega), rfl⟩

/-- Settles O35: the command is the append of `stagedColumns`, at most 9 entries, which fit. -/
theorem stgcharAppendsTheCharacter : Obligations.StgcharAppendsTheCharacter := by
  rintro ch s new hf (rfl : new = stagedColumns Config.thisHardware s.stgGlyph ch) hfit
  have hnine : (stagedColumns Config.thisHardware s.stgGlyph ch).length ≤ 9 := by
    have := (columnsForChar_length Config.thisHardware ch).2
    rw [stagedColumns_length]
    split <;> omega
  have hrun := exec_of_effect hf (.stgchar ch)
  generalize stagedColumns Config.thisHardware s.stgGlyph ch = new at hfit hnine hrun
  have hlen : (new.map entryOfColumn).length = new.length := List.length_map ..
  rw [appendCommand_fits (hlen ▸ hfit)] at hrun
  refine ⟨_, BitVec.ofNat 4 new.length, hrun, ?_, ?_, ?_⟩
  · rw [← hlen]
    exact appendStg_stgLen_toNat (g := true) (by omega)
  · rw [BitVec.toNat_ofNat]
    omega
  · rw [hlen]
    rfl

/-- Settles O53: the checks of the port come first, those of the command are `checkStatus`. -/
theorem checksAreMadeInOrder : Obligations.ChecksAreMadeInOrder := by
  refine ⟨fun s w rest hi => ⟨_, serveNext_input hi, rfl⟩, fun s w hmode => ?_⟩
  rw [step_presentWord]
  cases hf : s.fault with
  | true =>
    rw [serveWord_halted hf]
    exact ⟨_, _, rfl, rfl, rfl⟩
  | false =>
    cases hd : decode w with
    | error e =>
      rw [serveWord_illegal hd, whenRunning_running hf]
      exact ⟨_, _, rfl, rfl, rfl⟩
    | ok i =>
      obtain ⟨s', he⟩ := exists_effect hmode i
      obtain ⟨r, hr, hstatus⟩ := he.status
      rw [serveWord_legal hd]
      refine ⟨s', r, execIn_of_effect hf he, hr, hstatus.trans ?_⟩
      cases i <;> rfl

/-- Settles O3, by the two laws of an idle port. -/
theorem noCommandNothingHappens : Obligations.NoCommandNothingHappens :=
  fun _ => ⟨serveNext_idle, fun _ hi => (serveNext_input hi).trans serveInput_none⟩

/-- Settles O6, command by command. -/
theorem stepIsTheConfiguredStepOfThisHardware : Obligations.StepIsTheConfiguredStepOfThisHardware :=
  ⟨congrFun₂ exec_eq_execIn, step_eq_stepIn⟩

/-- Settles O36: each of the three commands is an append, and one that does not fit is `reject`. -/
theorem appendThatDoesNotFitIsRejectedWhole : Obligations.AppendThatDoesNotFitIsRejectedWhole := by
  intro s hf
  refine ⟨fun col8 h => ?_, fun frame h => ?_, fun ch h => ?_⟩
  · exact (exec_of_effect hf (.stgcol col8)).trans (congrArg _ (appendCommand_full h))
  · exact (exec_of_effect hf (.stgfrm frame)).trans (congrArg _ (appendCommand_full h))
  · rw [← stagedColumns_length, ← List.length_map (f := entryOfColumn)] at h
    exact (exec_of_effect hf (.stgchar ch)).trans (congrArg _ (appendCommand_full h))

end Sys2Proof.Proofs
end

section
/-! SUPPORT. A pattern and its eight Columns: `col`, `split` and `pack` undo each other (R21). -/

namespace Sys2Proof.Machine

theorem pack_getLsbD_column (c0 c1 c2 c3 c4 c5 c6 c7 : Column) (k : Fin 8) {i : Nat} (hi : i < 8) :
    (pack c0 c1 c2 c3 c4 c5 c6 c7).getLsbD (56 - 8 * k.val + i) = ([c0, c1, c2, c3, c4, c5, c6, c7][k]).getLsbD i := by
  rw [pack_getLsbD]
  fin_cases k <;> simp [hi] <;> grind

/-- A pattern is its eight Columns. -/
theorem eq_of_col_eq {S T : DisplayState} (h : ∀ k, col S k = col T k) : S = T := by
  apply BitVec.eq_of_getLsbD_eq
  intro i hi
  have hbit := congrArg (·.getLsbD (i % 8)) (h ⟨7 - i / 8, by omega⟩)
  have hpos : 56 - 8 * (7 - i / 8) + i % 8 = i := by omega
  simpa only [col_getLsbD, hpos, Nat.mod_lt i (Nat.zero_lt_succ 7), decide_true, Bool.true_and] using hbit

/-- Column `k` of packed Columns is the `k`-th of them. -/
theorem col_pack (c0 c1 c2 c3 c4 c5 c6 c7 : Column) (k : Fin 8) :
    col (pack c0 c1 c2 c3 c4 c5 c6 c7) k = [c0, c1, c2, c3, c4, c5, c6, c7][k] := by
  apply BitVec.eq_of_getLsbD_eq
  intro i hi
  rw [col_getLsbD, pack_getLsbD_column _ _ _ _ _ _ _ _ k hi]
  simp [hi]

theorem split_pack (c0 c1 c2 c3 c4 c5 c6 c7 : Column) :
    split (pack c0 c1 c2 c3 c4 c5 c6 c7) = [c0, c1, c2, c3, c4, c5, c6, c7] := by
  simp only [split, col_pack]
  rfl

theorem pack_col (S : DisplayState) :
    pack (col S 0) (col S 1) (col S 2) (col S 3) (col S 4) (col S 5) (col S 6) (col S 7) = S := by
  apply eq_of_col_eq
  intro k
  rw [col_pack]
  fin_cases k <;> rfl

end Sys2Proof.Machine
end

section
/-! SUPPORT. Who writes what (R34, R35), and the display's side of the block: the staging commands leave it alone, and but for
`COMMIT` it is all the other commands go by (R68). -/

namespace Sys2Proof.Machine

/-- This hardware's configuration meets every constraint on the open parameters (R6). -/
theorem thisHardware_admissible : Config.thisHardware.admissible = true := by decide +kernel

/-! `TICK` without an entry. -/

theorem currentEntry_none {s : State} (h : s.len.toNat ≤ s.cursor.toNat ∨ s.seq.length ≤ s.cursor.toNat) :
    s.currentEntry = none := by
  refine Option.eq_none_iff_forall_ne_some.mpr fun e he => ?_
  obtain ⟨hcur, hget⟩ := currentEntry_some.mp he
  obtain ⟨hlt, -⟩ := List.getElem?_eq_some_iff.mp hget
  omega

theorem execTick_no_entry {s : State} (hf : s.fault = false) (h : s.currentEntry = none) :
    execTick s = .fault .seqIndexOutOfRange := by
  simp only [execTick, whenRunning_running hf, h]

/-! The display's side of the block. -/

/-- The block with its staging buffer and its response forgotten: what R68 says staging does not touch. -/
def State.displaySide (s : State) : State := { s with stg := [], stgLen := 0, stgGlyph := false, response := none }

/-- What reads the display's side only reads the same of two blocks with one display's side. -/
theorem read_displaySide {α : Type} (f : State → α) {s u : State} (h : u.displaySide = s.displaySide)
    (hf : ∀ s : State, f s.displaySide = f s := by exact fun _ => rfl) : f u = f s := by
  rw [← hf u, h, hf s]

/-- The four commands that change the staging buffer alone (R159, R160, R161, R125). -/
def isStaging (i : Instr) : Bool := ["STGCLR", "STGCOL", "STGFRM", "STGCHAR"].contains i.mnemonic

theorem appendCommand_displaySide (n : Nat) (new : List Entry) (g : Bool) (s : State) :
    (appendCommand n new g s).displaySide = s.displaySide := by
  obtain ⟨-, h⟩ | ⟨-, h⟩ := appendCommand_cases n new g s <;> rw [h] <;> rfl

theorem raiseFault_displaySide_congr (cause : Cause) {s u : State} (h : u.displaySide = s.displaySide) :
    (raiseFault cause u).displaySide = (raiseFault cause s).displaySide :=
  congrArg (fun d => { d with fault := true, fcode := cause.fcode }) h

/-- A staging command leaves the display's side as it was. -/
theorem Effect.displaySide_of_isStaging {c : Config} {i : Instr} {s s' : State} (he : Effect c s i s')
    (hi : isStaging i = true) : s'.displaySide = s.displaySide := by
  cases he with
  | stgclr => rfl
  | stgcol _ | stgfrm _ | stgchar _ => exact appendCommand_displaySide ..
  | _ => cases hi

/-- Every other command but `COMMIT` does the same on two blocks with one display's side. -/
theorem Effect.displaySide_congr {c : Config} {i : Instr} {s s' u : State} (he : Effect c s i s')
    (hi : isStaging i = false) (hcommit : i.mnemonic ≠ "COMMIT") (h : u.displaySide = s.displaySide) :
    ∃ u', Effect c u i u' ∧ u'.displaySide = s'.displaySide := by
  cases he with
  | glyph ch => exact ⟨_, .glyph ch, h⟩
  | cols ch => exact ⟨_, .cols ch, h⟩
  | map hcell => exact ⟨_, .map hcell, h⟩
  | mapFault hout => exact ⟨_, .mapFault hout, raiseFault_displaySide_congr .coordRange h⟩
  | scrollin col8 => exact ⟨_, .scrollin col8, congrArg (fun d => { d with fb := scrollIn d.fb col8 }) h⟩
  | replace frame => exact ⟨_, .replace frame, congrArg (fun d => { d with fb := frame }) h⟩
  | @tick e hentry =>
    have hentry' : u.currentEntry = some e := (read_displaySide State.currentEntry h).trans hentry
    exact ⟨_, .tick hentry', congrArg (·.advance e) h⟩
  | pixel hcell => exact ⟨_, .pixel hcell, h⟩
  | pixelFault hout => exact ⟨_, .pixelFault hout, raiseFault_displaySide_congr .coordRange h⟩
  | rdfb => exact ⟨_, .rdfb, h⟩
  | rdstat => exact ⟨_, .rdstat, h⟩
  | stgclr | stgcol _ | stgfrm _ | stgchar _ => cases hi
  | commitEmpty _ _ | commit _ _ => exact absurd rfl hcommit

/-- The check of every other command but `COMMIT` is of its operands alone. -/
theorem checkStatus_congr {c : Config} {i : Instr} (hi : isStaging i = false) (hcommit : i.mnemonic ≠ "COMMIT")
    (s u : State) : checkStatus c s i = checkStatus c u i := by
  cases i with
  | stgclr | stgcol _ | stgfrm _ | stgchar _ => cases hi
  | commit _ => exact absurd rfl hcommit
  | _ => rfl

theorem Effect.ok_congr {c : Config} {i : Instr} {s s' u u' : State} {r : Response} (he : Effect c s i s') (hu : Effect c u i u')
    (hi : isStaging i = false) (hcommit : i.mnemonic ≠ "COMMIT") (hr : s'.response = some r) (hok : r.status = .ok) :
    ∃ ru, u'.response = some ru ∧ ru.status = .ok := by
  obtain ⟨r', hr', hstatus⟩ := he.status
  obtain ⟨ru, hru, hustatus⟩ := hu.status
  obtain rfl : r' = r := Option.some.inj (hr'.symm.trans hr)
  exact ⟨ru, hru, by rw [hustatus, checkStatus_congr hi hcommit u s, ← hstatus, hok]⟩

/-! A run in which every outcome is `ok`. -/

/-- A command whose answer is `ok` was performed by a running block. -/
theorem effect_of_ok {c : Config} {i : Instr} {s s' : State} {r : Response} (h : execIn c i s = .next s')
    (hr : s'.response = some r) (hok : r.status = .ok) : s.fault = false ∧ Effect c s i s' := by
  obtain ⟨-, rfl⟩ | hrun := execIn_next h
  · cases hr
    cases hok
  · exact hrun

/-- The other direction of `runOk_cons`: what the first command of such a run did. -/
theorem runOk_cons_some {c : Config} {i : Instr} {is : List Instr} {s t : State} {rs : List Response}
    (h : runOk c (i :: is) s = some (t, rs)) :
    ∃ s' r rs', s.fault = false ∧ Effect c s i s' ∧ s'.response = some r ∧ r.status = .ok ∧
      runOk c is s' = some (t, rs') := by
  rw [runOk] at h
  split at h
  · next s' r hout =>
    obtain ⟨hexec, hr, hok⟩ := okOutcome_some hout
    obtain ⟨⟨t', rs'⟩, hrest, heq⟩ := Option.map_eq_some_iff.mp h
    cases heq
    obtain ⟨hf, he⟩ := effect_of_ok hexec hr hok
    exact ⟨s', r, rs', hf, he, hr, hok, hrest⟩
  · cases h

/-- The converse: an `ok` effect of a running block continues a run. -/
theorem runOk_cons_of_effect {c : Config} {i : Instr} {is : List Instr} {s s' t : State} {r : Response} {rs : List Response}
    (hf : s.fault = false) (he : Effect c s i s') (hr : s'.response = some r) (hok : r.status = .ok)
    (h : runOk c is s' = some (t, rs)) : runOk c (i :: is) s = some (t, r :: rs) := by
  have hout : okOutcome (execIn c i s) = some (s', r) := by rw [execIn_of_effect hf he, okOutcome_ok hr hok]
  rw [runOk_cons hout, h]
  rfl

/-- Without its staging commands a run without `COMMIT`, from a block with the same display's side, is `ok` too and ends with the
same display's side. -/
theorem runOk_without_staging {c : Config} {is : List Instr} (hcommit : ∀ i ∈ is, i.mnemonic ≠ "COMMIT") {s u t : State}
    {rs : List Response} (h : u.displaySide = s.displaySide) (hrun : runOk c is s = some (t, rs)) :
    ∃ u' us, runOk c (is.filter fun i => !isStaging i) u = some (u', us) ∧ u'.displaySide = t.displaySide := by
  induction is generalizing s u rs with
  | nil =>
    cases hrun
    exact ⟨u, [], rfl, h⟩
  | cons i is ih =>
    obtain ⟨hi, his⟩ := List.forall_mem_cons.mp hcommit
    obtain ⟨s', r, rs', hf, he, hr, hok, hrest⟩ := runOk_cons_some hrun
    cases hs : isStaging i with
    | true =>
      rw [List.filter_cons_of_neg (by simp [hs])]
      exact ih his (h.trans (he.displaySide_of_isStaging hs).symm) hrest
    | false =>
      rw [List.filter_cons_of_pos (by simp [hs])]
      obtain ⟨u', hu, hside⟩ := he.displaySide_congr hs hi h
      have hfu : u.fault = false := (read_displaySide State.fault h).trans hf
      obtain ⟨ru, hru, huok⟩ := he.ok_congr hu hs hi hr hok
      obtain ⟨v, us, hfiltered, hend⟩ := ih his hside hrest
      exact ⟨v, ru :: us, runOk_cons_of_effect hfu hu hru huok hfiltered, hend⟩

/-! Who writes what. -/

/-- The framebuffer is written by `scroll_in` and `replace` only (R35). -/
theorem Effect.fb_cases {c : Config} {i : Instr} {s s' : State} (he : Effect c s i s') :
    s'.fb = s.fb ∨ (∃ col8, i = .scrollin col8 ∧ s'.fb = scrollIn s.fb col8) ∨
      (∃ frame, i = .replace frame ∧ s'.fb = frame) ∨
      (i = .tick ∧ ∃ e, s.seq[s.cursor.toNat]? = some e ∧ s'.fb = advanceFrame s.tag s.fb e) := by
  have hside := he.displaySide_of_isStaging
  cases he with
  | scrollin col8 => exact .inr (.inl ⟨col8, rfl, rfl⟩)
  | replace frame => exact .inr (.inr (.inl ⟨frame, rfl, rfl⟩))
  | @tick e hentry => exact .inr (.inr (.inr ⟨rfl, e, (currentEntry_some.mp hentry).2, rfl⟩))
  | stgcol _ | stgfrm _ | stgchar _ => exact .inl (read_displaySide State.fb (hside rfl))
  | _ => exact .inl rfl

theorem Effect.mode_frame {c : Config} {i : Instr} {s s' : State} (he : Effect c s i s') :
    (s'.tag = s.tag ∧ s'.len = s.len ∧ s'.seq = s.seq) ∨ i.mnemonic = "COMMIT" := by
  have hside := he.displaySide_of_isStaging
  cases he with
  | commit _ _ => exact .inr rfl
  | stgcol _ | stgfrm _ | stgchar _ =>
    exact .inl ⟨read_displaySide State.tag (hside rfl), read_displaySide State.len (hside rfl),
      read_displaySide State.seq (hside rfl)⟩
  | _ => exact .inl ⟨rfl, rfl, rfl⟩

theorem Effect.cursor_frame {c : Config} {i : Instr} {s s' : State} (he : Effect c s i s') :
    s'.cursor = s.cursor ∨ i.mnemonic ∈ ["TICK", "COMMIT"] := by
  have hside := he.displaySide_of_isStaging
  cases he with
  | tick _ | commit _ _ => exact .inr (by simp [Instr.mnemonic])
  | stgcol _ | stgfrm _ | stgchar _ => exact .inl (read_displaySide State.cursor (hside rfl))
  | _ => exact .inl rfl

theorem Effect.staging_frame {c : Config} {i : Instr} {s s' : State} (he : Effect c s i s') :
    (s'.stg = s.stg ∧ s'.stgLen = s.stgLen ∧ s'.stgGlyph = s.stgGlyph) ∨
      i.mnemonic ∈ ["STGCLR", "STGCOL", "STGFRM", "STGCHAR", "COMMIT"] := by
  cases he with
  | stgclr | stgcol _ | stgfrm _ | stgchar _ | commit _ _ => exact .inr (by simp [Instr.mnemonic])
  | _ => exact .inl ⟨rfl, rfl, rfl⟩

theorem Ending.latch_frame {s s' : State} (h : Ending s s') :
    (s'.fault = s.fault ∧ s'.fcode = s.fcode) ∨
      (s'.fault = true ∧ ∃ r, s'.response = some r ∧ r.status.outcomeClass = .fault) := by
  cases h with
  | ok cnt data t hf hc => exact .inl ⟨hf, hc⟩
  | reject st _ => exact .inl ⟨rfl, rfl⟩
  | fault cause => exact .inr ⟨rfl, _, rfl, cause.status_outcomeClass⟩

theorem Effect.inputs_frame {c : Config} {i : Instr} {s s' : State} (he : Effect c s i s') : s'.inputs = s.inputs := by
  have hside := he.displaySide_of_isStaging
  cases he with
  | stgcol _ | stgfrm _ | stgchar _ => exact read_displaySide State.inputs (hside rfl)
  | _ => rfl

end Sys2Proof.Machine
end

section
/-! PROOFS. The statements about the state of the block: its values at reset, its layout, its invariant and who writes it. -/

namespace Sys2Proof.Proofs

open Sys2Proof.Machine

/-- Settles O59: `stepIn_keeps_inv` at this hardware's configuration. -/
theorem everyStepKeepsTheInvariant : Obligations.EveryStepKeepsTheInvariant :=
  fun s _ hinv hs => stepIn_keeps_inv thisHardware_admissible hinv ((step_eq_stepIn s).symm.trans hs)

/-- Settles O14: the bits of a column, and `col` and `pack` as inverses. -/
theorem columnsArePackedMostSignificantFirst : Obligations.ColumnsArePackedMostSignificantFirst := by
  refine ⟨fun S k i hi => ?_, fun c0 c1 c2 c3 c4 c5 c6 c7 => ⟨rfl, split_pack ..⟩, pack_col, fun _ _ => rfl⟩
  rw [col_getLsbD, decide_eq_true hi, Bool.true_and]

/-- Settles O29: the invariant gives the cursor its entry; without one `execTick` stops. -/
theorem tickAlwaysFindsItsEntry : Obligations.TickAlwaysFindsItsEntry := by
  refine ⟨fun s _ hmode => ?_, fun s hf hout => execTick_no_entry hf (currentEntry_none hout)⟩
  rw [exec_eq_execIn]
  exact execIn_progress hmode .tick

/-- Settles O40, by `runOk_without_staging`; the five pieces are of the display's side. -/
theorem stagingIsInvisibleUntilCommit : Obligations.StagingIsInvisibleUntilCommit := by
  intro is s t rs hcommit hrun
  obtain ⟨u, us, hfiltered, hside⟩ := runOk_without_staging hcommit (u := s) rfl hrun
  exact ⟨u, us, hfiltered, read_displaySide State.fb hside, read_displaySide State.tag hside, read_displaySide State.len hside,
    read_displaySide State.seq hside, read_displaySide State.cursor hside⟩

/-- Settles O55: a halted block changes nothing, a running one by its command's effect, piece by piece. -/
theorem onlyTheNamedCommandsWriteEachPiece : Obligations.OnlyTheNamedCommandsWriteEachPiece := by
  intro i s s' h
  simp only [ne_eq, ← not_and_or]
  obtain ⟨-, rfl⟩ | ⟨-, he⟩ := exec_next h
  · simp
  · refine ⟨fun hfb => ?_, he.mode_frame.resolve_left, he.cursor_frame.resolve_left, he.staging_frame.resolve_left,
      he.ending.latch_frame.resolve_left, he.inputs_frame⟩
    obtain ⟨_, rfl, -⟩ | ⟨_, rfl, -⟩ | ⟨rfl, -⟩ := he.fb_cases.resolve_left hfb <;> simp [Instr.mnemonic]

/-- Settles O56: of the things a step can do, only a reset and the three commands of `Effect.fb_cases` change the framebuffer. -/
theorem framebufferChangesOnlyByScrollOrReplace : Obligations.FramebufferChangesOnlyByScrollOrReplace := by
  intro s s' hs hfb
  rw [step_eq_stepIn] at hs
  obtain ⟨-, rfl⟩ | ⟨p, rest, hinputs, hserve⟩ := serveNext_next hs
  · exact absurd rfl hfb
  refine ⟨p, rest, hinputs, ?_⟩
  obtain ⟨hrst, rfl⟩ | ⟨-, -, rfl⟩ | ⟨hrst, w, hcw, ⟨-, -, hi⟩ | ⟨i, hd, hi⟩⟩ := hserve
  · exact .inl ⟨hrst, rfl⟩
  · exact absurd rfl hfb
  · obtain ⟨-, rfl⟩ | ⟨-, hfault⟩ := whenRunning_next hi
    · exact absurd rfl hfb
    · cases hfault
      exact absurd rfl hfb
  · obtain ⟨-, rfl⟩ | ⟨-, he⟩ := execIn_next hi
    · exact absurd rfl hfb
    refine .inr ⟨hrst, w, hcw, ?_⟩
    obtain ⟨col8, rfl, hval⟩ | ⟨frame, rfl, hval⟩ | ⟨rfl, e, hentry, hval⟩ := he.fb_cases.resolve_left hfb
    · exact .inl ⟨col8, hd, hval⟩
    · exact .inr (.inl ⟨frame, hd, hval⟩)
    · exact .inr (.inr ⟨hd, e, hentry, hval⟩)

/-- Settles O1, value by value. -/
theorem resetGivesTheSpecifiedState : Obligations.ResetGivesTheSpecifiedState :=
  ⟨rfl, rfl, rfl, rfl, rfl, rfl, rfl, rfl, rfl, rfl⟩

/-- Settles O58: `resetIn_inv` at this hardware's configuration. -/
theorem invariantHoldsAtReset : Obligations.InvariantHoldsAtReset := resetIn_inv thisHardware_admissible

end Sys2Proof.Proofs
end

section
/-! SUPPORT. The port and the block apart: what a presented word does, and that no command goes by what was answered before or by
what is yet to come (R61, R65, R80). -/

namespace Sys2Proof

/-! A word the encoder wrote. -/

theorem whenReservedZero_ok {n : Nat} {arg : BitVec 64} (h : arg >>> n = 0) (i : Instr) : whenReservedZero n arg i = .ok i :=
  if_pos h

/-- The index operands of a well-formed `MAP` or `PIXEL` come back from their fields (R82). -/
theorem fields_argOfIndices {row col : Nat} (h : (indexFits row && indexFits col) = true) :
    (rowField (argOfIndices row col)).toNat = row ∧ (lowByte (argOfIndices row col)).toNat = col := by
  simp only [indexFits, Bool.and_eq_true, decide_eq_true_eq] at h
  obtain ⟨hrow, hcol⟩ := h
  rw [rowField_argOfIndices, lowByte_argOfIndices, BitVec.toNat_ofNat, BitVec.toNat_ofNat]
  exact ⟨Nat.mod_eq_of_lt hrow, Nat.mod_eq_of_lt hcol⟩

/-- The decoder reads back every well-formed command (R94). -/
theorem decode_encode {i : Instr} (h : i.wellFormed = true) : decode (encode i) = .ok i := by
  cases i <;> simp only [encode, decode, opField_commandWord, argField_commandWord]
  case glyph b | cols b | scrollin b | stgcol b | stgchar b =>
    exact (whenReservedZero_ok (argOfByte_reserved b) _).trans (by rw [lowByte_argOfByte])
  case map row col | pixel row col =>
    obtain ⟨hrow, hcol⟩ := fields_argOfIndices h
    exact (whenReservedZero_ok (argOfIndices_reserved row col) _).trans (by rw [hrow, hcol])
  case commit tag => cases tag <;> rfl
  all_goals rfl

end Sys2Proof

namespace Sys2Proof.Machine

/-! The port beside the block. -/

/-- The block with another response shown and other inputs to come. -/
def State.withPort (s : State) (response : Option Response) (inputs : List PortInput) : State :=
  { s with response := response, inputs := inputs }

@[simp] theorem withPort_currentEntry (s : State) (r : Option Response) (l : List PortInput) :
    (s.withPort r l).currentEntry = s.currentEntry := rfl

/-- A result with its next state changed; a stop stays as it is. -/
def mapNext (f : State → State) : Result → Result
  | .next s    => .next (f s)
  | .fault r   => .fault r
  | .refused r => .refused r

theorem appendCommand_withPort (n : Nat) (new : List Entry) (g : Bool) (s : State) (r : Option Response) (l : List PortInput) :
    appendCommand n new g (s.withPort r l) = { appendCommand n new g s with inputs := l } := by
  obtain ⟨hn, h⟩ | ⟨hn, h⟩ := appendCommand_cases n new g s <;> rw [h]
  · exact appendCommand_full hn
  · exact appendCommand_fits hn

theorem whenRunning_withPort {run : State → Result} {s : State} {r : Option Response} {l : List PortInput}
    (h : run (s.withPort r l) = mapNext ({ · with inputs := l }) (run s)) :
    whenRunning (s.withPort r l) run = mapNext ({ · with inputs := l }) (whenRunning s run) := by
  cases hf : s.fault
  · rw [whenRunning_running hf, ← h]
    exact whenRunning_running hf
  · rw [whenRunning_halted hf]
    exact whenRunning_halted hf

/-- A command does the same whatever response is shown and whatever is yet to come, which it leaves as it was. -/
theorem execIn_withPort (c : Config) (i : Instr) (s : State) (r : Option Response) (l : List PortInput) :
    execIn c i (s.withPort r l) = mapNext ({ · with inputs := l }) (execIn c i s) := by
  cases i <;> simp only [execIn, glyphIn, colsIn, mapIn, execScrollin, execReplace, execTick, pixelIn, execRdfb, execRdstat,
    execStgclr, stgcolIn, stgfrmIn, stgcharIn, execCommit] <;> apply whenRunning_withPort
  case map row k | pixel row k => cases cellOfOperands row k <;> rfl
  case tick =>
    simp only [withPort_currentEntry]
    cases s.currentEntry <;> rfl
  case stgcol | stgfrm | stgchar => exact congrArg _ (appendCommand_withPort ..)
  case commit tag =>
    by_cases h : s.stgLen = 0
    · rw [if_pos h]
      exact if_pos h
    · rw [if_neg h]
      exact if_neg h
  all_goals rfl

/-- A command leaves the inputs to come as they were, in a halted block too. -/
theorem execIn_inputs {c : Config} {i : Instr} {s s' : State} (h : execIn c i s = .next s') : s'.inputs = s.inputs := by
  obtain ⟨-, rfl⟩ | ⟨-, he⟩ := execIn_next h
  · rfl
  · exact he.inputs_frame

/-! A sequence of commands presented. -/

theorem presentAll_eq_withPort (s : State) (is : List Instr) :
    s.presentAll is = s.withPort s.response (s.presentAll is).inputs := rfl

/-- The commands still to come wait while one is performed. -/
theorem exec_presentAll (i : Instr) (is : List Instr) (s : State) :
    exec i (s.presentAll is) = mapNext (·.presentAll is) (exec i s) := by
  rw [exec_eq_execIn, presentAll_eq_withPort, execIn_withPort]
  cases h : execIn Config.thisHardware i s with
  | next s' => simp only [mapNext, State.presentAll, execIn_inputs h]
  | fault | refused => rfl

/-- One step performs the first of them. -/
theorem step_presentAll_cons {i : Instr} (h : i.wellFormed = true) (is : List Instr) (s : State) :
    step (s.presentAll (i :: is)) = mapNext (·.presentAll is) (exec i s) := by
  rw [← exec_presentAll, exec_eq_execIn]
  exact (step_presentWord (s.presentAll is) (encode i)).trans (serveWord_legal (decode_encode h))

end Sys2Proof.Machine
end

section
/-! SUPPORT. The coordinate table and its inverse (R138, R141, R192). -/

namespace Sys2Proof.Machine

/-- An admissible coordinate table wires no two cells to one address (R138). -/
theorem physical_injective {c : Config} (h : c.admissible = true) : Function.Injective (physical c) := by
  simp only [Config.admissible, coordMapWf, Bool.and_eq_true, decide_eq_true_eq] at h
  obtain ⟨⟨⟨-, hnodup⟩, -⟩, -⟩ := h
  exact fun a b hab => List.inj_on_of_nodup_map hnodup (mem_allCells a) (mem_allCells b) hab

theorem physical_of_cellAt {c : Config} {a : PhysAddr} {cell : Cell} (h : cellAt c a = some cell) : physical c cell = a :=
  beq_iff_eq.mp (List.find?_some (p := fun cell => physical c cell == a) h)

/-- The cell the search finds at an address is the one wired to it. -/
theorem cellAt_eq_some {c : Config} (h : c.admissible = true) {a : PhysAddr} {cell : Cell} :
    cellAt c a = some cell ↔ physical c cell = a := by
  refine ⟨physical_of_cellAt, ?_⟩
  rintro rfl
  obtain ⟨cell', hfind⟩ : ∃ cell', cellAt c (physical c cell) = some cell' :=
    Option.isSome_iff_exists.mp (List.find?_isSome.mpr ⟨cell, mem_allCells cell, beq_self_eq_true _⟩)
  rw [hfind, physical_injective h (physical_of_cellAt hfind)]

theorem cellAt_eq_none {c : Config} {a : PhysAddr} : cellAt c a = none ↔ ∀ cell, physical c cell ≠ a := by
  simp [cellAt, mem_allCells]

/-- The LED of a cell is bit `56 - 8*col + row` of the pattern (R21, R22). -/
theorem on_eq_getLsbD (S : DisplayState) (cell : Cell) : on S cell = S.getLsbD (56 - 8 * cell.2.val + cell.1.val) := by
  rw [on, col_getLsbD, decide_eq_true cell.1.isLt, Bool.true_and]

/-- Every address of this hardware's table is wired: its `x` is even (R54, R137). -/
theorem wired_physical (cell : Cell) : wired (physical Config.thisHardware cell) = true := by
  revert cell
  decide +kernel

/-- R141's inverse, address by address, undoes the table on the wired ones. -/
theorem physical_inverseCell {a : PhysAddr} (h : wired a = true) : physical Config.thisHardware (inverseCell a) = a := by
  have hall : ∀ (x : BitVec 4) (y : BitVec 3), wired ⟨x, y⟩ = true →
      physical Config.thisHardware (inverseCell ⟨x, y⟩) = ⟨x, y⟩ := by decide +kernel
  exact hall a.x a.y h

theorem inverseCell_val (a : PhysAddr) :
    (inverseCell a).1.val = (if a.y.toNat = 7 then 7 else 6 - a.y.toNat) ∧ (inverseCell a).2.val = a.x.toNat / 2 := by
  refine ⟨Nat.mod_eq_of_lt ?_, Nat.mod_eq_of_lt ?_⟩
  · split <;> omega
  · have := a.x.isLt
    omega

end Sys2Proof.Machine
end

section
/-! PROOFS. The statements about the memories of the block: presented sequences, the committed sequence, the coordinate table
and the reads. -/

namespace Sys2Proof.Proofs

open Sys2Proof.Machine

/-- Settles O5, by induction on the commands: `step_presentAll_cons` performs the first and leaves the rest presented. -/
theorem presentedCommandsTakeEffectInOrder : Obligations.PresentedCommandsTakeEffectInOrder := by
  intro is
  induction is with
  | nil => exact fun _ _ => rfl
  | cons i is ih =>
    intro s hwf
    obtain ⟨hi, his⟩ := List.forall_mem_cons.mp hwf
    have hstep : core.step (s.presentAll (i :: is)) = mapNext (·.presentAll is) (exec i s) := step_presentAll_cons hi is s
    simp only [List.length_cons, Host.Core.run, hstep, execAll]
    cases exec i s with
    | next s' => exact ih s' his
    | fault | refused => rfl

/-- Settles O39: the entry at cursor 0 of the installed sequence is `e`, and `TICK` plays it into the kept framebuffer. -/
theorem firstTickAfterCommitPlaysEntryZero : Obligations.FirstTickAfterCommitPlaysEntryZero := by
  intro tag s e more hf hstg hlen
  have hne : s.stgLen ≠ 0 := by
    intro h0
    simp [h0, hstg] at hlen
  have hentry : (respondOk 0 (s.stgLen.setWidth 64) (s.install tag)).currentEntry = some e := by
    refine currentEntry_some.mpr ⟨?_, ?_⟩ <;> simp [hstg, hlen]
  have htick := runOk_cons_of_effect (c := Config.thisHardware) (is := []) (s := respondOk 0 _ (s.install tag)) hf
    (.tick hentry) rfl rfl rfl
  refine ⟨_, _, runOk_cons_of_effect hf (.commit tag hne) rfl rfl htick, ?_, ?_, hstg⟩
  · cases tag <;> rfl
  · exact (nextCursor_toNat 0 hne).trans (by rw [hlen]; rfl)

/-- Settles O46: a wired address has the cell `inverseCell` names, and no cell has an unwired one. -/
theorem ledAtAPhysicalAddress : Obligations.LedAtAPhysicalAddress := by
  intro S a
  refine ⟨fun hw => ⟨physical_inverseCell hw, ?_⟩, fun hw => ?_⟩
  · obtain ⟨hrow, hcol⟩ := inverseCell_val a
    rw [led, (cellAt_eq_some thisHardware_admissible).mpr (physical_inverseCell hw), Option.map_some, on_eq_getLsbD, hrow, hcol]
  · have hnone : cellAt Config.thisHardware a = none := by
      refine cellAt_eq_none.mpr fun cell hcell => ?_
      rw [← hcell, wired_physical] at hw
      cases hw
    rw [led, hnone]
    rfl

/-- Settles O57: an `ok` read only answers, and by `execIn_withPort` it answers the same beside any other port. -/
theorem readsArePureAndRepeatable : Obligations.ReadsArePureAndRepeatable := by
  intro i s s' r hi hexec hr hok
  rw [exec_eq_execIn] at hexec ⊢
  have hpure : s' = { s with response := some r } := by
    obtain ⟨-, he⟩ := effect_of_ok hexec hr hok
    cases he with
    | glyph | cols | map | pixel | rdfb | rdstat => cases hr; rfl
    | mapFault | pixelFault => cases hr; cases hok
    | _ => simp [Instr.mnemonic] at hi
  refine ⟨hpure, fun t ht => ?_⟩
  have hport : t = s.withPort t.response t.inputs := ht
  rw [hport, execIn_withPort, hexec, hpure]
  rfl

end Sys2Proof.Proofs
end

section
/-! SUPPORT. The decoder against the opcode map: the reading of a word said once, and what a row of the map claims (R81, R82,
R85 to R87, R94). -/

namespace Sys2Proof

open Laws.EncodedOpcode (opcode)

/-! The operand fields of a word whose reserved bits are 0. -/

theorem getLsbD_of_ushiftRight_eq_zero {n : Nat} {arg : BitVec 64} (h : arg >>> n = 0) {i : Nat} (hi : n ≤ i) :
    arg.getLsbD i = false := by
  have hbit := congrArg (·.getLsbD (i - n)) h
  simpa [Nat.add_sub_cancel' hi] using hbit

/-- A command whose operand fills `arg` has no reserved bit. -/
theorem ushiftRight_width_eq_zero (arg : BitVec 64) : arg >>> 64 = 0#64 := BitVec.ushiftRight_eq_zero le_rfl

theorem argOfByte_lowByte {arg : BitVec 64} (h : arg >>> 8 = 0) : argOfByte (lowByte arg) = arg := by
  apply BitVec.eq_of_getLsbD_eq
  intro i _
  rw [argOfByte_getLsbD, lowByte, BitVec.getLsbD_extractLsb', Nat.zero_add]
  by_cases hi : i < 8
  · simp [hi]
  · simp [hi, getLsbD_of_ushiftRight_eq_zero h (Nat.not_lt.mp hi)]

theorem argOfIndices_fields {arg : BitVec 64} (h : arg >>> 16 = 0) :
    argOfIndices (rowField arg).toNat (lowByte arg).toNat = arg := by
  apply BitVec.eq_of_getLsbD_eq
  intro i hi
  rw [argOfIndices_getLsbD, BitVec.ofNat_toNat, BitVec.ofNat_toNat, BitVec.setWidth_eq, BitVec.setWidth_eq, rowField, lowByte,
    BitVec.getLsbD_extractLsb', BitVec.getLsbD_extractLsb', decide_eq_true hi, Bool.true_and]
  by_cases h8 : i < 8
  · simp [h8]
  · by_cases h16 : i < 16
    · simp [h8, show i - 8 < 8 by omega, show 8 + (i - 8) = i by omega]
    · simp [h8, show ¬ i - 8 < 8 by omega, getLsbD_of_ushiftRight_eq_zero h (Nat.not_lt.mp h16)]

theorem setWidth_tagBit_tagOfBit {arg : BitVec 64} (h : arg >>> 1 = 0) :
    (tagBit (tagOfBit (arg.getLsbD 0))).setWidth 64 = arg := by
  have hbit : tagBit (tagOfBit (arg.getLsbD 0)) = BitVec.ofBool (arg.getLsbD 0) := by
    cases arg.getLsbD 0 <;> rfl
  apply BitVec.eq_of_getLsbD_eq
  intro i hi
  rw [hbit, BitVec.getLsbD_setWidth, BitVec.getLsbD_ofBool, decide_eq_true hi, Bool.true_and]
  by_cases h0 : i = 0
  · simp [h0]
  · simp [h0, getLsbD_of_ushiftRight_eq_zero h (Nat.one_le_iff_ne_zero.mpr h0)]

theorem indices_wellFormed (arg : BitVec 64) :
    (indexFits (rowField arg).toNat && indexFits (lowByte arg).toNat) = true :=
  Bool.and_eq_true_iff.mpr ⟨decide_eq_true (rowField arg).isLt, decide_eq_true (lowByte arg).isLt⟩

/-! The reading of a word. -/

theorem whenReservedZero_eq_ok {n : Nat} {arg : BitVec 64} {i j : Instr} :
    whenReservedZero n arg i = .ok j ↔ arg >>> n = 0 ∧ i = j := by
  by_cases h : arg >>> n = 0#64 <;> simp [whenReservedZero, h]

theorem whenReservedZero_eq_error {n : Nat} {arg : BitVec 64} {i : Instr} {e : Illegal} :
    whenReservedZero n arg i = .error e ↔ arg >>> n ≠ 0 ∧ .reservedBit = e := by
  by_cases h : arg >>> n = 0#64 <;> simp [whenReservedZero, h]

/-- The number of low bits of `arg` that the operand fields of a command fill; the bits above are reserved (R82, R87). -/
def Instr.operandWidth : Instr → Nat
  | .glyph _ | .cols _ | .scrollin _ | .stgcol _ | .stgchar _ => 8
  | .map _ _ | .pixel _ _                                     => 16
  | .replace _ | .stgfrm _                                    => 64
  | .tick | .rdfb | .rdstat | .stgclr                         => 0
  | .commit _                                                 => 1

/-- The word `w` read as the command `i`: its opcode is that of `i`, the decoder accepts it as `i` where its reserved bits are 0,
and then its operand bits are those of `i`. -/
structure ReadAs (w : CommandWord) (i : Instr) : Prop where
  decode_eq : decode w = whenReservedZero i.operandWidth (argField w) i
  opField_eq : opField w = opcode i
  wellFormed : i.wellFormed = true
  argField_eq : argField w >>> i.operandWidth = 0 → argField (encode i) = argField w

theorem opField_encode (i : Instr) : opField (encode i) = opcode i := by
  cases i <;> exact opField_commandWord _ _

theorem ReadAs.encode_eq {w : CommandWord} {i : Instr} (h : ReadAs w i) (h0 : argField w >>> i.operandWidth = 0) :
    encode i = w := by
  rw [← commandWord_fields (encode i), opField_encode, h.argField_eq h0, ← h.opField_eq, commandWord_fields]

/-- A word the decoder treats as one command is read as that command, where its fields are the command's. -/
theorem ReadAs.of_decode {w : CommandWord} {i : Instr} {n : Nat} {op : BitVec 4} {arg : BitVec 64}
    (hdecode : decode w = whenReservedZero n (argField w) i) (hn : n = i.operandWidth) (hencode : encode i = commandWord op arg)
    (hop : (opField w).toNat = op.toNat) (hwf : i.wellFormed = true) (harg : argField w >>> n = 0 → arg = argField w) :
    ReadAs w i := by
  subst hn
  refine ⟨hdecode, ?_, hwf, fun h0 => ?_⟩
  · rw [← opField_encode, hencode, opField_commandWord, BitVec.eq_of_toNat_eq hop]
  · rw [hencode, argField_commandWord, harg h0]

/-- What the decoder does with a word: two opcodes are illegal (R86), under every other the word is read as one command (R94). -/
theorem decode_cases (w : CommandWord) :
    ((opField w = 0x0#4 ∨ opField w = 0xF#4) ∧ decode w = .error .opcode) ∨ ∃ i, ReadAs w i := by
  generalize hr : decode w = r
  have hd := hr
  unfold decode at hd
  -- The decoder's arms, grouped by the form of their operands (R82).
  split at hd
  case h_1 hop | h_2 hop | h_4 hop | h_11 hop | h_13 hop =>
    exact .inr ⟨_, .of_decode (hr.trans hd.symm) rfl rfl hop rfl argOfByte_lowByte⟩
  case h_3 hop | h_7 hop =>
    exact .inr ⟨_, .of_decode (hr.trans hd.symm) rfl rfl hop (indices_wellFormed _) argOfIndices_fields⟩
  case h_5 hop | h_12 hop =>
    have hread := hd.symm.trans (whenReservedZero_ok (ushiftRight_width_eq_zero (argField w)) _).symm
    exact .inr ⟨_, .of_decode (hr.trans hread) rfl rfl hop rfl fun _ => rfl⟩
  case h_6 hop | h_8 hop | h_9 hop | h_10 hop =>
    exact .inr ⟨_, .of_decode (hr.trans hd.symm) rfl rfl hop rfl fun h => h.symm.trans (BitVec.ushiftRight_zero _)⟩
  case h_14 hop =>
    exact .inr ⟨_, .of_decode (hr.trans hd.symm) rfl rfl hop rfl setWidth_tagBit_tagOfBit⟩
  case h_15 =>
    have hop : (opField w).toNat = 0 ∨ (opField w).toNat = 15 := by
      simp only [imp_false] at *
      omega
    exact .inl ⟨hop.imp BitVec.eq_of_toNat_eq BitVec.eq_of_toNat_eq, hd.symm⟩

/-! The opcode map. -/

/-- The row of R85's table for a command: its opcode, and as mask the opcode with the reserved bits. -/
def Instr.row (i : Instr) : OpcodeRow :=
  { mnemonic := i.mnemonic
    pattern  := commandWord (opcode i) 0
    mask     := commandWord 0xF (BitVec.allOnes 64 <<< i.operandWidth) }

/-- The opcode map has the fourteen commands' rows. -/
theorem opcodeMap_eq_map_row :
    opcodeMap = [.glyph 0, .cols 0, .map 0 0, .scrollin 0, .replace 0, .tick, .pixel 0 0, .rdfb, .rdstat, .stgclr, .stgcol 0,
      .stgfrm 0, .stgchar 0, .commit .scroll].map Instr.row := by
  decide

theorem row_mem_opcodeMap (i : Instr) : i.row ∈ opcodeMap := by
  cases i <;> simp only [Instr.row, Instr.mnemonic, opcode, Instr.operandWidth] <;> decide

theorem exists_row_of_mem_opcodeMap {row : OpcodeRow} (h : row ∈ opcodeMap) : ∃ i : Instr, i.row = row := by
  rw [opcodeMap_eq_map_row] at h
  obtain ⟨i, -, hi⟩ := List.mem_map.mp h
  exact ⟨i, hi⟩

theorem commandWord_inj {op op' : BitVec 4} {arg arg' : BitVec 64} :
    commandWord op arg = commandWord op' arg' ↔ op = op' ∧ arg = arg' := by
  refine ⟨fun h => ?_, fun ⟨hop, harg⟩ => by rw [hop, harg]⟩
  have hop := congrArg opField h
  have harg := congrArg argField h
  simp only [opField_commandWord, argField_commandWord] at hop harg
  exact ⟨hop, harg⟩

/-- The bits of `arg` from bit `n` up are 0 in place exactly when they are 0 shifted down. -/
theorem shiftLeft_ushiftRight_eq_zero {n : Nat} {arg : BitVec 64} : arg >>> n <<< n = 0 ↔ arg >>> n = 0 := by
  refine ⟨fun h => ?_, fun h => by rw [h]; exact BitVec.zero_shiftLeft _⟩
  apply BitVec.eq_of_getLsbD_eq
  intro i hi
  by_cases hn : n + i < 64
  · simpa [hn] using congrArg (·.getLsbD (n + i)) h
  · rw [BitVec.getLsbD_ushiftRight, BitVec.getLsbD_of_ge _ _ (Nat.not_lt.mp hn)]
    exact BitVec.getLsbD_zero.symm

/-- The row of a command claims the words that have its opcode and 0 in its reserved bits (R85, R87). -/
theorem row_claims {i : Instr} {w : CommandWord} :
    i.row.claims w = true ↔ opField w = opcode i ∧ argField w >>> i.operandWidth = 0 := by
  have hmasked : w &&& i.row.mask = commandWord (opField w) (argField w >>> i.operandWidth <<< i.operandWidth) := by
    have hand := BitVec.and_append (x₁ := opField w) (y₁ := argField w) (x₂ := 0xF#4)
      (y₂ := BitVec.allOnes 64 <<< i.operandWidth)
    rw [BitVec.shiftLeft_ushiftRight, ← BitVec.and_allOnes (x := opField w)]
    conv_lhs => rw [← commandWord_fields w]
    exact hand
  rw [OpcodeRow.claims, beq_iff_eq, hmasked, Instr.row, commandWord_inj, shiftLeft_ushiftRight_eq_zero]

/-- One opcode, one row: the opcodes of R85's table are distinct. -/
theorem row_eq_of_opcode_eq {i j : Instr} (h : opcode i = opcode j) : i.row = j.row := by
  have hall : ∀ r₁ ∈ opcodeMap, ∀ r₂ ∈ opcodeMap, opField r₁.pattern = opField r₂.pattern → r₁ = r₂ := by decide
  refine hall _ (row_mem_opcodeMap i) _ (row_mem_opcodeMap j) ?_
  rwa [Instr.row, Instr.row, opField_commandWord, opField_commandWord]

theorem row_eq_of_claims {i j : Instr} {w : CommandWord} (hi : i.row.claims w = true) (hj : j.row.claims w = true) :
    i.row = j.row :=
  row_eq_of_opcode_eq ((row_claims.mp hi).1.symm.trans (row_claims.mp hj).1)

/-- A legal word is the word of the one command it decodes to, and that command's row claims it. -/
theorem decode_eq_ok {w : CommandWord} {i : Instr} (h : decode w = .ok i) :
    i.wellFormed = true ∧ encode i = w ∧ i.row.claims w = true := by
  obtain ⟨-, hbad⟩ | ⟨j, hj⟩ := decode_cases w
  · rw [hbad] at h
    cases h
  · obtain ⟨h0, rfl⟩ := whenReservedZero_eq_ok.mp (hj.decode_eq.symm.trans h)
    exact ⟨hj.wellFormed, hj.encode_eq h0, row_claims.mpr ⟨hj.opField_eq, h0⟩⟩

/-- A word that a row claims is legal. -/
theorem exists_decode_eq_ok_of_claims {i : Instr} {w : CommandWord} (h : i.row.claims w = true) : ∃ j, decode w = .ok j := by
  obtain ⟨hop, h0⟩ := row_claims.mp h
  obtain ⟨hbad, -⟩ | ⟨j, hj⟩ := decode_cases w
  · rw [hop] at hbad
    cases i <;> simp [opcode] at hbad
  · have hrow : j.row = i.row := row_eq_of_opcode_eq (hj.opField_eq.symm.trans hop)
    rw [← hrow] at h
    exact ⟨j, hj.decode_eq.trans (whenReservedZero_ok (row_claims.mp h).2 j)⟩

theorem decode_eq_error_of_no_claim {w : CommandWord} (h : ∀ row ∈ opcodeMap, row.claims w = false) :
    ∃ e, decode w = .error e := by
  cases hd : decode w with
  | error e => exact ⟨e, rfl⟩
  | ok i =>
    obtain ⟨-, -, hclaims⟩ := decode_eq_ok hd
    rw [h i.row (row_mem_opcodeMap i)] at hclaims
    cases hclaims

end Sys2Proof
end

section
/-! SUPPORT. What a presented command answers (R83), what `PIXEL` reports (R95, R194), and a text staged character by character
(R126). -/

namespace Sys2Proof.Machine

/-! The response. -/

theorem Response.word_fields (r : Response) :
    r.word.extractLsb' 68 4 = r.status.code ∧ r.word.extractLsb' 64 4 = r.cnt ∧ r.word.extractLsb' 0 64 = r.data := by
  refine ⟨BitVec.eq_of_getLsbD_eq fun i hi => ?_, BitVec.eq_of_getLsbD_eq fun i hi => ?_,
    BitVec.eq_of_getLsbD_eq fun i hi => ?_⟩ <;>
  rw [BitVec.getLsbD_extractLsb', Response.word_getLsbD]
  · simp [hi, show ¬ 68 + i < 64 by omega]
  · simp [hi, show 64 + i < 68 by omega]
  · simp [hi]

/-- A command that has ended has answered, with a count and data only where the outcome is `ok`. -/
theorem Ending.response {s s' : State} (h : Ending s s') :
    ∃ r, s'.response = some r ∧ (r.status ≠ .ok → r.cnt = 0 ∧ r.data = 0) := by
  cases h with
  | ok cnt data t _ _ => exact ⟨_, rfl, absurd rfl⟩
  | reject st _ | fault cause => exact ⟨_, rfl, fun _ => ⟨rfl, rfl⟩⟩

/-! One render entry. -/

theorem pixelData_fields (lit : Bool) (a : PhysAddr) :
    (pixelData lit a).getLsbD 16 = lit ∧ (pixelData lit a).extractLsb' 8 8 = a.x.setWidth 8 ∧
      (pixelData lit a).extractLsb' 0 8 = a.y.setWidth 8 ∧ (pixelData lit a).extractLsb' 17 47 = 0 := by
  refine ⟨?_, BitVec.eq_of_getLsbD_eq fun i hi => ?_, BitVec.eq_of_getLsbD_eq fun i hi => ?_,
    BitVec.eq_of_getLsbD_eq fun i hi => ?_⟩
  · rw [pixelData_getLsbD]
    simp
  · simp [pixelData_getLsbD, hi, show 8 + i < 16 by omega]
  · simp [pixelData_getLsbD, hi]
  · simp [pixelData_getLsbD, show ¬ 17 + i < 8 by omega, show ¬ 17 + i < 16 by omega, show ¬ 17 + i = 16 by omega]

/-- The two axes of this hardware's coordinate table, as the bytes a response carries (R95, R137). -/
theorem physical_thisHardware (row k : Fin 8) :
    (physical Config.thisHardware (row, k)).x.setWidth 8 = BitVec.ofNat 8 (2 * k.val) ∧
      (physical Config.thisHardware (row, k)).y.setWidth 8 = BitVec.ofNat 8 (if row.val = 7 then 7 else 6 - row.val) := by
  revert row k
  decide +kernel

/-! A text in the staging buffer. -/

/-- The Columns that one `STGCHAR` per character appends, a spacer in front of the first one where a glyph went before (R28, R125). -/
def textColumns (c : Config) (glyphBefore : Bool) : List CharCode → List Column
  | []         => []
  | ch :: text => stagedColumns c glyphBefore ch ++ textColumns c true text

/-- From a buffer with no glyph before, these are the Columns of the text (R123). -/
theorem textColumns_false (c : Config) (text : List CharCode) : textColumns c false text = columnsForString c text := by
  induction text with
  | nil => rfl
  | cons ch text ih =>
    cases text with
    | nil => simp [textColumns, stagedColumns, columnsForString]
    | cons next rest => simpa [textColumns, stagedColumns, columnsForString] using ih

/-- Where a character's Columns fit, `STGCHAR` is `ok` and appends them. -/
theorem exists_stgchar_effect {c : Config} {ch : CharCode} {s : State} (hmax : c.seqMax ≤ 65535)
    (hfit : s.stgLen.toNat + (stagedColumns c s.stgGlyph ch).length ≤ c.seqMax) :
    ∃ s' r, Effect c s (.stgchar ch) s' ∧ s'.response = some r ∧ r.status = .ok ∧ s'.fault = s.fault ∧ s'.stgGlyph = true ∧
      s'.stg = s.stg ++ (stagedColumns c s.stgGlyph ch).map entryOfColumn ∧
      s'.stgLen.toNat = s.stgLen.toNat + (stagedColumns c s.stgGlyph ch).length := by
  have he : Effect c s (.stgchar ch) _ := .stgchar ch
  rw [← List.length_map (f := entryOfColumn)] at hfit ⊢
  rw [appendCommand_fits hfit] at he
  exact ⟨_, _, he, rfl, rfl, rfl, rfl, rfl, appendStg_stgLen_toNat (g := true) (hfit.trans hmax)⟩

/-- Where they fit, one `STGCHAR` per character is `ok` throughout and appends exactly these Columns. -/
theorem runOk_stgchar {c : Config} (hmax : c.seqMax ≤ 65535) (text : List CharCode) {s : State} (hf : s.fault = false)
    (hfit : s.stgLen.toNat + (textColumns c s.stgGlyph text).length ≤ c.seqMax) :
    ∃ t rs, runOk c (text.map Instr.stgchar) s = some (t, rs) ∧
      t.stg = s.stg ++ (textColumns c s.stgGlyph text).map entryOfColumn ∧
      t.stgLen.toNat = s.stgLen.toNat + (textColumns c s.stgGlyph text).length := by
  induction text generalizing s with
  | nil => exact ⟨s, [], rfl, (List.append_nil _).symm, rfl⟩
  | cons ch text ih =>
    rw [textColumns, List.length_append] at hfit
    obtain ⟨s', r, he, hr, hok, hfault, hglyph, hstg, hlen⟩ := exists_stgchar_effect (s := s) (ch := ch) hmax (by omega)
    obtain ⟨t, rs, hrun, htStg, htLen⟩ := ih (hfault.trans hf) (by rw [hglyph]; omega)
    rw [hglyph] at htStg htLen
    refine ⟨t, r :: rs, runOk_cons_of_effect hf he hr hok hrun, ?_, ?_⟩
    · rw [htStg, hstg, textColumns, List.map_append, List.append_assoc]
    · rw [htLen, hlen, textColumns, List.length_append, Nat.add_assoc]

end Sys2Proof.Machine
end

section
/-! PROOFS. The statements about the command word, the response word and the words a running block meets on its port. -/

namespace Sys2Proof.Proofs

open Sys2Proof.Machine
open Laws.EncodedOpcode (opcode)

/-- Settles O7: `decode_encode`. -/
theorem decodeOfEncodeIsTheInstruction : Obligations.DecodeOfEncodeIsTheInstruction := fun _ => decode_encode

/-- Settles O8: the legal words are those read as a command with every reserved bit 0. -/
theorem encodeOfDecodeIsTheWord : Obligations.EncodeOfDecodeIsTheWord := by
  intro w i h
  obtain ⟨hwf, hencode, -⟩ := decode_eq_ok h
  exact ⟨hwf, hencode⟩

/-- Settles O9: a legal word is claimed by its command's row, a claimed word is legal, and the opcode tells the rows apart. -/
theorem decoderAgreesWithTheOpcodeMap : Obligations.DecoderAgreesWithTheOpcodeMap := by
  refine ⟨fun w i h => ?_, fun w e h row hrow => ?_, fun w r₁ h₁ r₂ h₂ => ?_⟩
  · obtain ⟨-, -, hclaims⟩ := decode_eq_ok h
    exact ⟨i.row, row_mem_opcodeMap i, hclaims, rfl⟩
  · obtain ⟨i, rfl⟩ := exists_row_of_mem_opcodeMap hrow
    refine Bool.eq_false_iff.mpr fun hclaims => ?_
    obtain ⟨j, hj⟩ := exists_decode_eq_ok_of_claims hclaims
    rw [hj] at h
    cases h
  · obtain ⟨i, rfl⟩ := exists_row_of_mem_opcodeMap h₁
    obtain ⟨j, rfl⟩ := exists_row_of_mem_opcodeMap h₂
    exact row_eq_of_claims

/-- Settles O10: by `decode_cases` the word has an opcode of R86, or it is read as a command, whose reserved bits R87 names. -/
theorem illegalWordsAreRejectedByName : Obligations.IllegalWordsAreRejectedByName := by
  intro w
  obtain ⟨hop, hd⟩ | ⟨i, hi⟩ := decode_cases w
  · rw [hd]
    obtain hop | hop := hop <;> simp [hop]
  · rw [hi.decode_eq, whenReservedZero_eq_error, whenReservedZero_eq_error, hi.opField_eq]
    cases i <;> simp [opcode, Instr.operandWidth, ushiftRight_width_eq_zero]

/-- Settles O41: `STGCLR` leaves an empty buffer with no glyph before, and `runOk_stgchar` fills it. -/
theorem stagingATextBuildsItsColumns : Obligations.StagingATextBuildsItsColumns := by
  intro c text s hc hf hfit
  obtain ⟨-, hmax⟩ := admissible_seqMax hc
  rw [← textColumns_false] at hfit ⊢
  obtain ⟨t, rs, hrun, hstg, hlen⟩ := runOk_stgchar hmax text (s := respondOk 0 0 s.clearStg) hf (by simpa using hfit)
  refine ⟨t, _, runOk_cons_of_effect hf .stgclr rfl rfl hrun, hstg, ?_⟩
  simpa using hlen

/-- Settles O44: the fields of `pixelData` at the address the coordinate table gives the cell. -/
theorem pixelAnswersOneRenderEntry : Obligations.PixelAnswersOneRenderEntry := by
  intro row k s hf
  obtain ⟨hlit, hx, hy, hzero⟩ := pixelData_fields (on s.fb (row, k)) (physical Config.thisHardware (row, k))
  obtain ⟨hcol, hrow⟩ := physical_thisHardware row k
  exact ⟨_, exec_of_effect hf (.pixel (cellOfOperands_inside row.isLt k.isLt)), hlit, hx.trans hcol, hy.trans hrow, hzero⟩

/-- Settles O50: a word that no row claims is illegal, and a running block raises the fault. -/
theorem illegalCommandWordFaults : Obligations.IllegalCommandWordFaults := by
  intro s w rest hf hi hw
  obtain ⟨e, hd⟩ := decode_eq_error_of_no_claim hw
  rw [step, serveNext_input hi, serveInput_word, serveWord_illegal hd]
  exact whenRunning_running hf

/-- Settles O4, by the laws of the port. -/
theorem stepRunsTheDecodedCommand : Obligations.StepRunsTheDecodedCommand := by
  intro s w i rest hi hd
  rw [step, serveNext_input hi, serveInput_word, serveWord_legal hd]

/-- Settles O12: the fields of the response word, and the answer of a halted and of a running block. -/
theorem responseWordCarriesStatusCountAndData : Obligations.ResponseWordCarriesStatusCountAndData := by
  refine ⟨Response.word_fields, fun s s' w hs => ?_⟩
  rw [step_presentWord] at hs
  cases hf : s.fault with
  | true =>
    rw [serveWord_halted hf] at hs
    cases hs
    exact ⟨_, rfl, fun _ => ⟨rfl, rfl⟩⟩
  | false => exact (serveWord_ending hf hs).response

end Sys2Proof.Proofs
end

section
/-! SUPPORT. A word that is a command's encoding, and what the Glyph ROM holds (R110 to R113, R116). -/

namespace Sys2Proof

theorem decode_eq_of_encode_eq {w : CommandWord} {i : Instr} (hwf : i.wellFormed = true) (hw : encode i = w) :
    decode w = .ok i :=
  hw ▸ decode_encode hwf

end Sys2Proof

namespace Sys2Proof.Machine

theorem admissible_font {c : Config} (h : c.admissible = true) :
    c.font.lookup 0x20 = some 0x0000000000000000#64 ∧ c.font.lookup 0x41 = some 0x3E7EC8C87E3E0000#64 ∧
      c.font.lookup 0x42 = some 0x6C9292FEFE820000#64 := by
  simp only [Config.admissible, fontWf, Bool.and_eq_true, beq_iff_eq] at h
  obtain ⟨⟨⟨⟨⟨hspace, hA⟩, hB⟩, -⟩, -⟩, -⟩ := h
  exact ⟨hspace, hA, hB⟩

theorem glyphRom_supported {c : Config} {ch : CharCode} {P : DisplayState} (h : c.font.lookup ch = some P) :
    glyphRom c ch = P := by
  rw [glyphRom, h]

theorem glyphRom_unsupported {c : Config} {ch : CharCode} (h : c.font.lookup ch = none) : glyphRom c ch = c.glyphMissing := by
  rw [glyphRom, h]

/-- The known entries hold whatever other characters the font supports (R112, R113). -/
theorem glyphRom_known {c : Config} (h : c.admissible = true) :
    glyphRom c 0x20 = 0x0000000000000000#64 ∧ glyphRom c 0x41 = 0x3E7EC8C87E3E0000#64 ∧
      glyphRom c 0x42 = 0x6C9292FEFE820000#64 := by
  obtain ⟨hspace, hA, hB⟩ := admissible_font h
  exact ⟨glyphRom_supported hspace, glyphRom_supported hA, glyphRom_supported hB⟩

/-- The reference ROM supports no character beyond the known three (R116 item 3). -/
theorem referenceFont_lookup_eq_none {ch : CharCode} (hspace : ch ≠ 0x20#8) (hA : ch ≠ 0x41#8) (hB : ch ≠ 0x42#8) :
    referenceFont.lookup ch = none := by
  simp [referenceFont, List.lookup_eq_none_iff, hspace, hA, hB]

/-- The whole reference ROM: the known three entries, and the box at every other code (R116 items 2 and 3). -/
theorem glyphRom_thisHardware (ch : CharCode) :
    glyphRom Config.thisHardware ch =
      if ch = 0x20 then 0x0000000000000000#64 else if ch = 0x41 then 0x3E7EC8C87E3E0000#64
      else if ch = 0x42 then 0x6C9292FEFE820000#64 else 0xFF818181818181FF#64 := by
  obtain ⟨romSpace, romA, romB⟩ := glyphRom_known thisHardware_admissible
  split_ifs with hspace hA hB
  · rw [hspace, romSpace]
  · rw [hA, romA]
  · rw [hB, romB]
  · exact glyphRom_unsupported (referenceFont_lookup_eq_none hspace hA hB)

end Sys2Proof.Machine
end

section
/-! PROOFS. The statements about the words the spec writes out and about the Glyph ROM. -/

namespace Sys2Proof.Proofs

open Sys2Proof.Machine

/-- Settles O16: the constraint on the font gives the known entries, and the ROM read is total. -/
theorem glyphRomHoldsTheKnownEntries : Obligations.GlyphRomHoldsTheKnownEntries := by
  intro c hc
  obtain ⟨hspace, hA, hB⟩ := glyphRom_known hc
  exact ⟨hspace, hA, hB, fun _ => glyphRom_unsupported⟩

/-- Settles O17: the effect of `GLYPH` answers the ROM's word, which `glyphRom_thisHardware` gives for every code. -/
theorem glyphAnswersThePattern : Obligations.GlyphAnswersThePattern := by
  intro ch s hf
  rw [exec_of_effect hf (.glyph ch), glyphRom_thisHardware, respondOk]

/-- Settles O11: each word is the encoding of its command. -/
theorem wordsTheSpecWritesOutDecode : Obligations.WordsTheSpecWritesOutDecode := by
  refine ⟨?_, ?_, ?_, ?_, ?_, ?_, ?_, ?_, ?_⟩ <;> exact decode_eq_of_encode_eq rfl (by decide)

end Sys2Proof.Proofs
end

section
/-! SUPPORT. What the glyph compositor makes of a pattern (R121), and what a response packs (R95). -/

namespace Sys2Proof.Machine

theorem split_getElem (P : DisplayState) (k : Fin 8) : (split P)[k] = col P k := by
  fin_cases k <;> rfl

/-- Packed Columns come back one by one, with zero Columns after the last. -/
theorem col_packList (cs : List Column) (k : Fin 8) : col (packList cs) k = cs.getD k.val 0 := by
  rw [packList, col_pack]
  fin_cases k <;> rfl

theorem col_zero (k : Fin 8) : col 0 k = 0 := BitVec.extractLsb'_zero

theorem exists_col_ne_zero {P : DisplayState} (h : P ≠ 0) : ∃ k, col P k ≠ 0 := by
  by_contra! hcols
  exact h (eq_of_col_eq fun k => (hcols k).trans (col_zero k).symm)

theorem trimmedColumns_zero : trimmedColumns 0 = [0] := by decide

/-- A pattern that is not all zero starts, once trimmed, at its first non-zero Column. -/
theorem trimmedColumns_of_ne_zero {P : DisplayState} (h : P ≠ 0) :
    ∃ f : Fin 8, (∀ k < f, col P k = 0) ∧ col P f ≠ 0 ∧ trimmedColumns P = (split P).drop f.val := by
  obtain ⟨k, hk⟩ := exists_col_ne_zero h
  have hmem : col P k ∈ split P := split_getElem P k ▸ List.getElem_mem _
  have hlt : (split P).findIdx (· != 0) < (split P).length :=
    List.findIdx_lt_length.mpr ⟨col P k, hmem, bne_iff_ne.mpr hk⟩
  refine ⟨⟨_, hlt⟩, fun j hj => ?_, ?_, if_neg fun hall => hk ?_⟩
  · exact (split_getElem P j).symm.trans (bne_eq_false_iff_eq.mp (List.not_of_lt_findIdx hj))
  · exact (split_getElem P ⟨_, hlt⟩).symm.trans_ne (bne_iff_ne.mp (List.findIdx_getElem (w := hlt)))
  · exact beq_iff_eq.mp (List.all_eq_true.mp hall _ hmem)

end Sys2Proof.Machine
end

section
/-! PROOFS. The statements about the glyph compositor. -/

namespace Sys2Proof.Proofs

open Sys2Proof.Machine

/-- Settles O18: the two cases of trimming; the bounds on the length are `columnsForChar_length`. -/
theorem leadingZeroColumnsAreTrimmed : Obligations.LeadingZeroColumnsAreTrimmed := by
  refine fun c ch => ⟨fun h0 => ?_, fun hne => ?_, columnsForChar_length c ch⟩
  · rw [columnsForChar, h0, trimmedColumns_zero]
  · obtain ⟨f, hbefore, hfirst, htrim⟩ := trimmedColumns_of_ne_zero hne
    exact ⟨f, hbefore, hfirst, htrim, by rw [columnsForChar, htrim, List.length_drop, split_length]⟩

/-- Settles O19: the effect of `COLS` answers the packed Columns, and their number, at most 8, fits the count field. -/
theorem colsAnswersTheTrimmedColumns : Obligations.ColsAnswersTheTrimmedColumns := by
  intro ch s hf
  refine ⟨_, _, exec_of_effect hf (.cols ch), ?_, col_packList _⟩
  have hle := (columnsForChar_length Config.thisHardware ch).2
  rw [BitVec.toNat_ofNat, Nat.mod_eq_of_lt (by omega)]

/-- Settles O20, by induction on the text: two glyphs or more start with one glyph and one spacer. -/
theorem stringColumnsAreSeparatedByOneSpacer : Obligations.StringColumnsAreSeparatedByOneSpacer := by
  intro c text
  induction text with
  | nil => rfl
  | cons ch text ih =>
    cases text with
    | nil => exact List.intercalate_singleton.symm
    | cons next rest =>
      simp only [columnsForString, ih, List.map_cons, List.intercalate_cons_cons, List.append_assoc, List.singleton_append]

end Sys2Proof.Proofs
end

section
/-! SUPPORT. The data of a `MAP` as a number (R95, R140), and a render as a list over the cells of its order (R191, R193). -/

namespace Sys2Proof.Machine

theorem coordData_toNat (a : PhysAddr) :
    (coordData a).toNat = 256 * (a.x.setWidth 8).toNat + (a.y.setWidth 8).toNat := by
  have hy := (a.y.setWidth 8).isLt
  have hx := (a.x.setWidth 8).isLt
  rw [coordData, BitVec.toNat_setWidth, BitVec.toNat_append, ← Nat.shiftLeft_add_eq_or_of_lt hy, Nat.shiftLeft_eq]
  omega

theorem render_length (c : Config) (order : List Cell) (S : DisplayState) : (render c order S).length = order.length :=
  List.length_map _

theorem render_addresses (c : Config) (order : List Cell) (S : DisplayState) :
    (render c order S).map Prod.fst = order.map (physical c) :=
  List.map_map

theorem mem_render_of_mem {order : List Cell} {cell : Cell} (h : cell ∈ order) (c : Config) (S : DisplayState) :
    (physical c cell, on S cell) ∈ render c order S :=
  List.mem_map_of_mem h

/-- An admissible order misses no cell (R193). -/
theorem mem_of_renderOrderWf {order : List Cell} (h : renderOrderWf order = true) (cell : Cell) : cell ∈ order :=
  (renderOrderWf_perm h).mem_iff.mpr (mem_allCells cell)

theorem allCells_nodup : allCells.Nodup := by decide +kernel

end Sys2Proof.Machine
end

section
/-! PROOFS. The statements about the coordinate mapper. -/

namespace Sys2Proof.Proofs

open Sys2Proof.Machine

/-- Settles O22: the data of `MAP` joins the two axes of the table, which `physical_thisHardware` gives. -/
theorem mapAnswersThePhysicalAddress : Obligations.MapAnswersThePhysicalAddress := by
  intro row k s hf hrow hk
  have hrow' : row < 8 := Nat.lt_succ_of_le hrow
  have hk' : k < 8 := Nat.lt_succ_of_le hk
  refine ⟨_, exec_of_effect hf (.map (cellOfOperands_inside hrow' hk')), ?_⟩
  obtain ⟨hx, hy⟩ := physical_thisHardware ⟨row, hrow'⟩ ⟨k, hk'⟩
  rw [coordData_toNat, hx, hy, BitVec.toNat_ofNat, BitVec.toNat_ofNat]
  dsimp only
  split <;> omega

/-- Settles O45: the order is a permutation of the cells, and an admissible table is injective on them. -/
theorem renderCoversEveryWiredAddressOnce : Obligations.RenderCoversEveryWiredAddressOnce := by
  intro c order S hc horder
  have hperm := renderOrderWf_perm horder
  have hmem := mem_of_renderOrderWf horder
  rw [render_length, render_addresses]
  refine ⟨hperm.length_eq.trans allCells_length, ?_, fun a => ?_, fun cell => mem_render_of_mem (hmem cell) c S⟩
  · exact (hperm.nodup_iff.mpr allCells_nodup).map (physical_injective hc)
  · simp [hmem]

/-- Settles O21: the 64 cells of R137's table, cell by cell. -/
theorem coordinateTableIsThatOfTheBoard : Obligations.CoordinateTableIsThatOfTheBoard := by
  unfold Obligations.CoordinateTableIsThatOfTheBoard
  decide +kernel

end Sys2Proof.Proofs
end

section
/-! SUPPORT. The scroll engine: `scroll_in` as a shift, and a stream of Columns passing through the framebuffer (R150, R158). -/

namespace Sys2Proof.Machine

theorem col_scrollIn_castSucc (S : DisplayState) (c : Column) (k : Fin 7) : col (scrollIn S c) k.castSucc = col S k.succ := by
  rw [scrollIn, col_pack]
  fin_cases k <;> rfl

theorem col_scrollIn_last (S : DisplayState) (c : Column) : col (scrollIn S c) 7 = c := by
  rw [scrollIn, col_pack]
  rfl

theorem col_shift_castSucc (S : DisplayState) (c : Column) (k : Fin 7) :
    col ((S <<< 8) ||| c.setWidth 64) k.castSucc = col S k.succ := by
  apply BitVec.eq_of_getLsbD_eq
  intro i hi
  have hlow : ¬ 56 - 8 * k.val + i < 8 := by omega
  have hpos : 56 - 8 * k.val + i - 8 = 56 - 8 * (k.val + 1) + i := by omega
  have hin : 56 - 8 * k.val + i < 64 := by omega
  rw [col_getLsbD, col_getLsbD, Fin.val_castSucc, Fin.val_succ, ← hpos]
  simp [hin, hlow, (Nat.sub_le _ 8).trans_lt hin, BitVec.getLsbD_of_ge c _ (Nat.not_lt.mp hlow)]

theorem col_shift_last (S : DisplayState) (c : Column) : col ((S <<< 8) ||| c.setWidth 64) 7 = c := by
  apply BitVec.eq_of_getLsbD_eq
  intro i hi
  rw [col_getLsbD]
  simp [hi, show i < 64 by omega]

/-! The framebuffer as a window of eight Columns over the stream that is shifted in. -/

theorem eq_of_split_eq {S T : DisplayState} (h : split S = split T) : S = T :=
  eq_of_col_eq fun k => by rw [← split_getElem, ← split_getElem]; simp only [h]

theorem split_scrollIn (S : DisplayState) (c : Column) : split (scrollIn S c) = (split S).tail ++ [c] := split_pack ..

/-- The window shows the last eight Columns of the old picture followed by the stream. -/
theorem split_foldl_scrollIn (cs : List Column) (S : DisplayState) :
    split (cs.foldl scrollIn S) = (split S ++ cs).drop cs.length := by
  induction cs generalizing S with
  | nil => exact (List.append_nil _).symm
  | cons c cs ih => rw [List.foldl_cons, ih, split_scrollIn, List.append_assoc]; rfl

/-- Eight Columns fill the window. -/
theorem split_foldl_scrollIn_eight {cs : List Column} (h : cs.length = 8) (S : DisplayState) :
    split (cs.foldl scrollIn S) = cs := by
  rw [split_foldl_scrollIn, h]
  rfl

theorem col_foldl_scrollIn (cs : List Column) (S : DisplayState) (k : Fin 8) :
    some (col (cs.foldl scrollIn S) k) = (split S ++ cs)[k.val + cs.length]? := by
  rw [Nat.add_comm, ← List.getElem?_drop, ← split_foldl_scrollIn, ← split_getElem]
  exact (List.getElem?_eq_getElem _).symm

end Sys2Proof.Machine
end

section
/-! SUPPORT. The sequencer: what `n` ticks of a sequence started at cursor 0 leave and answer (R152, R155, R157), and what
`RDSTAT` tells of it (R165). -/

namespace Sys2Proof.Machine

/-- The `wrap` bit as the data of a response (R170). -/
theorem wrapBit_setWidth (cursor : BitVec 16) : (wrapBit cursor).setWidth 64 = if cursor = 0 then 1#64 else 0#64 := by
  rw [wrapBit]
  split
  · next h => rw [h]; rfl
  · next h => rw [beq_false_of_ne h]; rfl

theorem runOk_append {c : Config} {is js : List Instr} {s t u : State} {rs us : List Response}
    (hs : runOk c is s = some (t, rs)) (ht : runOk c js t = some (u, us)) :
    runOk c (is ++ js) s = some (u, rs ++ us) := by
  induction is generalizing s rs with
  | nil => cases hs; exact ht
  | cons i is ih =>
    cases hout : okOutcome (execIn c i s) with
    | none => simp [runOk, hout] at hs
    | some p =>
      rw [runOk_cons hout] at hs
      obtain ⟨⟨t', rs'⟩, hrest, heq⟩ := Option.map_eq_some_iff.mp hs
      cases heq
      rw [List.cons_append, runOk_cons hout, ih hrest]
      rfl

/-- The entry the tick number `j` plays, counted from 0, of a sequence started at cursor 0. -/
def State.playedEntry (s : State) (j : Nat) : Entry := s.seq.getD (j % s.len.toNat) 0

/-- The framebuffer after `n` ticks: the first `n` played entries, one `advance` each (R152). -/
def State.pictureAfter (s : State) (n : Nat) : DisplayState :=
  ((List.range n).map s.playedEntry).foldl (advanceFrame s.tag) s.fb

/-- The block after `n` ticks, but for the response it shows. -/
def State.played (s : State) (n : Nat) : State :=
  { s with fb := s.pictureAfter n, cursor := BitVec.ofNat 16 (n % s.len.toNat) }

/-- The answer to the tick number `j`: `wrap` is 1 where it plays the last entry (R170). -/
def State.tickAnswer (s : State) (j : Nat) : Response := ⟨.ok, 0, (wrapBit (s.played (j + 1)).cursor).setWidth 64⟩

theorem pictureAfter_succ (s : State) (n : Nat) :
    s.pictureAfter (n + 1) = advanceFrame s.tag (s.pictureAfter n) (s.playedEntry n) := by
  simp [State.pictureAfter, List.range_succ]

theorem played_cursor_toNat {s : State} (hpos : 1 ≤ s.len.toNat) (n : Nat) :
    (s.played n).cursor.toNat = n % s.len.toNat := by
  have := Nat.mod_lt n hpos
  have := s.len.isLt
  exact Nat.mod_eq_of_lt (by omega)

/-- The played entry is in the sequence, at the tick's number modulo the length. -/
theorem getElem?_playedEntry {s : State} (hpos : 1 ≤ s.len.toNat) (hseq : s.seq.length = s.len.toNat) (j : Nat) :
    s.seq[j % s.len.toNat]? = some (s.playedEntry j) := by
  have hlt : j % s.len.toNat < s.seq.length := (Nat.mod_lt j hpos).trans_eq hseq.symm
  rw [State.playedEntry, List.getD_eq_getElem _ _ hlt, List.getElem?_eq_getElem hlt]

theorem playedEntry_add_len (s : State) (j : Nat) : s.playedEntry (j + s.len.toNat) = s.playedEntry j := by
  rw [State.playedEntry, Nat.add_mod_right, State.playedEntry]

/-! One more tick. -/

theorem currentEntry_played {s : State} (hpos : 1 ≤ s.len.toNat) (hseq : s.seq.length = s.len.toNat) (n : Nat) :
    (s.played n).currentEntry = some (s.playedEntry n) := by
  have hcur := played_cursor_toNat hpos n
  refine currentEntry_some.mpr ⟨hcur ▸ Nat.mod_lt n hpos, ?_⟩
  rw [hcur]
  exact getElem?_playedEntry hpos hseq n

theorem played_advance {s : State} (hpos : 1 ≤ s.len.toNat) (n : Nat) :
    (s.played n).advance (s.playedEntry n) = s.played (n + 1) := by
  have hcur : nextCursor (s.played n).cursor s.len = (s.played (n + 1)).cursor := by
    rw [nextCursor, played_cursor_toNat hpos, Nat.mod_add_mod]
    rfl
  simp only [State.advance, State.played, pictureAfter_succ] at hcur ⊢
  rw [hcur]

theorem played_zero {s : State} (hcur : s.cursor = 0) : s.played 0 = s := by
  rw [State.played, Nat.zero_mod, ← BitVec.ofNat_eq_ofNat, ← hcur]
  rfl

/-- `TICK` goes from one of these states to the next, whatever the port shows. -/
theorem played_tick (c : Config) {s : State} (hpos : 1 ≤ s.len.toNat) (hseq : s.seq.length = s.len.toNat) (n : Nat)
    (r : Option Response) (l : List PortInput) :
    Effect c ((s.played n).withPort r l) .tick ((s.played (n + 1)).withPort (some (s.tickAnswer n)) l) := by
  rw [State.tickAnswer, ← played_advance hpos]
  exact .tick (currentEntry_played hpos hseq n)

/-- `n` ticks from cursor 0 are all `ok` and leave `s.played n`. -/
theorem runOk_ticks (c : Config) {s : State} (hf : s.fault = false) (hcur : s.cursor = 0) (hpos : 1 ≤ s.len.toNat)
    (hseq : s.seq.length = s.len.toNat) (n : Nat) :
    ∃ r, runOk c (List.replicate n .tick) s = some ((s.played n).withPort r s.inputs, (List.range n).map s.tickAnswer) := by
  induction n with
  | zero => exact ⟨s.response, by rw [played_zero hcur]; rfl⟩
  | succ n ih =>
    obtain ⟨r, hrun⟩ := ih
    have htick : runOk c [.tick] ((s.played n).withPort r s.inputs) =
        some ((s.played (n + 1)).withPort (some (s.tickAnswer n)) s.inputs, [s.tickAnswer n]) :=
      runOk_cons_of_effect hf (played_tick c hpos hseq n r s.inputs) rfl rfl rfl
    rw [List.replicate_succ', List.range_succ, List.map_append]
    exact ⟨_, runOk_append hrun htick⟩

/-! The framebuffer after `n` ticks. -/

theorem pictureAfter_animate {s : State} (htag : s.tag = .animate) {n : Nat} (hn : 1 ≤ n) :
    s.pictureAfter n = s.playedEntry (n - 1) := by
  obtain ⟨m, rfl⟩ := Nat.exists_eq_add_of_le' hn
  rw [pictureAfter_succ, htag]
  rfl

/-- In `Scroll` the framebuffer is a window over the old picture followed by the played Columns. -/
theorem col_pictureAfter_scroll {s : State} (htag : s.tag = .scroll) (n : Nat) (k : Fin 8) :
    some (col (s.pictureAfter n) k) =
      (split s.fb ++ (List.range n).map fun j => columnOfEntry (s.playedEntry j))[k.val + n]? := by
  have hpic : s.pictureAfter n = ((List.range n).map fun j => columnOfEntry (s.playedEntry j)).foldl scrollIn s.fb := by
    rw [State.pictureAfter, htag, List.foldl_map, List.foldl_map]
    rfl
  rw [hpic, col_foldl_scrollIn, List.length_map, List.length_range]

theorem col_pictureAfter_old {s : State} (htag : s.tag = .scroll) {n : Nat} {k : Fin 8} (h : k.val + n < 8) :
    col (s.pictureAfter n) k = col s.fb ⟨k.val + n, h⟩ := by
  rw [← Option.some_inj, col_pictureAfter_scroll htag, List.getElem?_append_left h, ← split_getElem]
  exact List.getElem?_eq_getElem _

theorem col_pictureAfter_new {s : State} (htag : s.tag = .scroll) {n : Nat} {k : Fin 8} (h : 8 ≤ k.val + n) :
    col (s.pictureAfter n) k = columnOfEntry (s.playedEntry (k.val + n - 8)) := by
  have hlt : k.val + n - 8 < n := by omega
  rw [← Option.some_inj, col_pictureAfter_scroll htag, List.getElem?_append_right h, split_length, List.getElem?_map,
    List.getElem?_range hlt, Option.map_some]

/-- Once the old picture is gone the framebuffer repeats with the length of the sequence. -/
theorem pictureAfter_add_len {s : State} {n : Nat} (hanimate : s.tag = .animate → 1 ≤ n)
    (hscroll : s.tag = .scroll → 8 ≤ n) : s.pictureAfter (n + s.len.toNat) = s.pictureAfter n := by
  cases htag : s.tag with
  | animate =>
    have hn := hanimate htag
    rw [pictureAfter_animate htag (Nat.le_add_right_of_le hn), pictureAfter_animate htag hn, Nat.sub_add_comm hn,
      playedEntry_add_len]
  | scroll =>
    have hn := hscroll htag
    refine eq_of_col_eq fun k => ?_
    have hk : 8 ≤ k.val + n := Nat.le_add_left_of_le hn
    rw [col_pictureAfter_new htag hk, col_pictureAfter_new htag (hk.trans (by omega)), ← Nat.add_assoc, Nat.sub_add_comm hk,
      playedEntry_add_len]

/-! The status word. -/

/-- The fields of the word `RDSTAT` answers (R165). -/
theorem statusWord_fields (s : State) :
    (statusWord s).extractLsb' 0 16 = s.cursor ∧ (statusWord s).extractLsb' 16 16 = s.len ∧
      (statusWord s).extractLsb' 32 16 = s.stgLen ∧ ((statusWord s).getLsbD 48 = true ↔ s.tag = .animate) ∧
      (statusWord s).getLsbD 49 = s.stgGlyph ∧ (statusWord s).extractLsb' 50 14 = 0 := by
  refine ⟨BitVec.eq_of_getLsbD_eq fun i hi => ?_, BitVec.eq_of_getLsbD_eq fun i hi => ?_,
    BitVec.eq_of_getLsbD_eq fun i hi => ?_, ?_, ?_, BitVec.eq_of_getLsbD_eq fun i hi => ?_⟩ <;>
  simp only [BitVec.getLsbD_extractLsb', statusWord_getLsbD]
  · simp [hi]
  · simp [hi, show 16 + i < 32 by omega]
  · simp [hi, show ¬ 32 + i < 16 by omega, show ¬ 32 + i < 32 by omega, show 32 + i < 48 by omega]
  · cases s.tag <;> simp [tagBit]
  · rfl
  · simp [show ¬ 50 + i < 16 by omega, show ¬ 50 + i < 32 by omega, show ¬ 50 + i < 48 by omega, show ¬ 50 + i < 49 by omega]

end Sys2Proof.Machine
end

section
/-! PROOFS. The statements about the framebuffer, the scroll engine and the sequencer. -/

namespace Sys2Proof.Proofs

open Sys2Proof.Machine

/-- Settles O24, Column by Column. -/
theorem scrollInIsAShiftByOneColumn : Obligations.ScrollInIsAShiftByOneColumn := by
  refine fun S c => eq_of_col_eq fun k => ?_
  cases k using Fin.lastCases with
  | last => exact (col_scrollIn_last S c).trans (col_shift_last S c).symm
  | cast k => exact (col_scrollIn_castSucc S c k).trans (col_shift_castSucc S c k).symm

/-- Settles O25: eight Columns fill the window that the framebuffer is. -/
theorem eightScrollsReplaceTheState : Obligations.EightScrollsReplaceTheState := by
  refine ⟨fun S c => ⟨col_scrollIn_castSucc S c, col_scrollIn_last S c⟩, fun S c0 c1 c2 c3 c4 c5 c6 c7 => ?_, fun S => ?_⟩
  · exact eq_of_split_eq ((split_foldl_scrollIn_eight rfl S).trans (split_pack ..).symm)
  · exact eq_of_split_eq (split_foldl_scrollIn_eight (split_length S) S)

/-- Settles O26: the effect of `SCROLLIN` is `scroll_in`, Column by Column. -/
theorem scrollinShiftsTheFramebuffer : Obligations.ScrollinShiftsTheFramebuffer :=
  fun c s hf => ⟨_, exec_of_effect hf (.scrollin c), col_scrollIn_castSucc s.fb c, col_scrollIn_last s.fb c, rfl⟩

/-- Settles O28: the entry is the one at the cursor, and its effect is `advance`. -/
theorem tickPlaysTheEntryAtTheCursor : Obligations.TickPlaysTheEntryAtTheCursor := by
  intro s e hf hcur hget
  have hne : s.len ≠ 0 := fun h0 => by simp [h0] at hcur
  refine ⟨_, exec_of_effect hf (.tick (currentEntry_some.mpr ⟨hcur, hget⟩)), fun htag => ?_, fun htag => ?_,
    nextCursor_toNat s.cursor hne, ?_⟩
  · have hfb : (s.advance e).fb = scrollIn s.fb (columnOfEntry e) := by rw [advance_fb, htag]; rfl
    simp only [State.colReg, respondOk_fb, hfb]
    exact ⟨col_scrollIn_castSucc s.fb _, col_scrollIn_last s.fb _⟩
  · rw [respondOk_fb, advance_fb, htag]
    rfl
  · rw [wrapBit_setWidth]
    rfl

/-- Settles O30: after `n` ticks the block is `s.played n`, where every played entry is the one there is. -/
theorem lengthOneSequenceRepeats : Obligations.LengthOneSequenceRepeats := by
  intro s e n hf hlen hseq hcur
  have hone : s.len.toNat = 1 := by rw [hlen]; rfl
  have hentry : ∀ j, s.playedEntry j = e := fun j => by rw [State.playedEntry, hseq, hone, Nat.mod_one]; rfl
  have hcursor : ∀ j, (s.played j).cursor = 0 := fun j => by rw [State.played, hone, Nat.mod_one]; rfl
  obtain ⟨r, hrun⟩ := runOk_ticks Config.thisHardware hf hcur hone.ge (by rw [hseq, hone]; rfl) n
  refine ⟨_, _, hrun, hcursor n, ?_, fun htag hn => ?_, fun htag hn k => ?_⟩
  · refine List.eq_replicate_iff.mpr ⟨by simp, fun r hr => ?_⟩
    obtain ⟨j, -, rfl⟩ := List.mem_map.mp hr
    rw [State.tickAnswer, hcursor, wrapBit_setWidth]
    rfl
  · exact (pictureAfter_animate htag hn).trans (hentry _)
  · exact (col_pictureAfter_new htag (Nat.le_add_left_of_le hn)).trans (congrArg columnOfEntry (hentry _))

/-- Settles O31: after `n` ticks the block is `s.played n`, whose picture is `s.pictureAfter n`. -/
theorem stateAfterTicks : Obligations.StateAfterTicks := by
  intro s n hf hcur hpos hseq
  obtain ⟨r, hrun⟩ := runOk_ticks Config.thisHardware hf hcur hpos hseq n
  refine ⟨_, _, hrun, played_cursor_toNat hpos n, fun htag => ⟨fun h0 => ?_, fun hn => ?_⟩,
    fun htag k => ⟨fun h => col_pictureAfter_old htag h, fun h => ?_⟩, rfl⟩
  · rw [h0]
    rfl
  · exact (getElem?_playedEntry hpos hseq (n - 1)).trans (congrArg some (pictureAfter_animate htag hn).symm)
  · rw [getElem?_playedEntry hpos hseq]
    exact congrArg some (col_pictureAfter_new htag h).symm

/-- Settles O32: both runs end in `State.played`, whose picture and cursor repeat with the length. -/
theorem displayIsPeriodicOnceFilled : Obligations.DisplayIsPeriodicOnceFilled := by
  intro s n hf hcur hpos hseq hanimate hscroll
  obtain ⟨r, hrun⟩ := runOk_ticks Config.thisHardware hf hcur hpos hseq n
  obtain ⟨r', hrun'⟩ := runOk_ticks Config.thisHardware hf hcur hpos hseq (n + s.len.toNat)
  exact ⟨_, _, _, _, hrun, hrun', pictureAfter_add_len hanimate hscroll, congrArg (BitVec.ofNat 16) (Nat.add_mod_right ..)⟩

/-- Settles O43: the fields of the status word. -/
theorem rdstatAnswersTheStatusWord : Obligations.RdstatAnswersTheStatusWord :=
  fun s hf => ⟨_, exec_of_effect hf .rdstat, statusWord_fields s⟩

/-- Settles O27: the effect of `REPLACE`. -/
theorem replaceAdoptsTheFrame : Obligations.ReplaceAdoptsTheFrame := fun f _ hf => exec_of_effect hf (.replace f)

/-- Settles O33: the effect of `STGCLR`. -/
theorem stgclrEmptiesTheStagingBuffer : Obligations.StgclrEmptiesTheStagingBuffer := fun _ hf => exec_of_effect hf .stgclr

/-- Settles O37: the effect of `COMMIT` where the staging buffer is not empty. -/
theorem commitInstallsTheStagingBuffer : Obligations.CommitInstallsTheStagingBuffer :=
  fun tag _ hf hne => exec_of_effect hf (.commit tag hne)

/-- Settles O42: the effect of `RDFB`. -/
theorem rdfbAnswersTheFramebuffer : Obligations.RdfbAnswersTheFramebuffer := fun _ hf => exec_of_effect hf .rdfb

end Sys2Proof.Proofs
end

section
/-! SUPPORT. The pixel mux (R190 to R195): what is in a grid and in a render, the 64 `PIXEL`s of a `RENDER`, and the picture a
push leaves on the display (R196, R205, R207). -/

namespace Sys2Proof.Machine

/-! The entries of a grid and of a render, in any order. -/

theorem mem_grid_iff {order : List Cell} (horder : renderOrderWf order = true) {S : DisplayState} {cell : Cell} {lit : Bool} :
    (cell, lit) ∈ grid order S ↔ lit = on S cell := by
  simp only [grid, List.mem_map, Prod.mk.injEq]
  constructor
  · rintro ⟨-, -, rfl, rfl⟩
    rfl
  · rintro rfl
    exact ⟨cell, mem_of_renderOrderWf horder cell, rfl, rfl⟩

/-- A render lists an address with a bit exactly where that bit is the address's LED (R191, R192). -/
theorem mem_render_iff {c : Config} (hc : c.admissible = true) {order : List Cell} (horder : renderOrderWf order = true)
    {S : DisplayState} {a : PhysAddr} {lit : Bool} : (a, lit) ∈ render c order S ↔ led c S a = some lit := by
  simp only [render, led, List.mem_map, Option.map_eq_some_iff, cellAt_eq_some hc, Prod.mk.injEq]
  exact exists_congr fun cell => and_iff_right (mem_of_renderOrderWf horder cell)

/-! The 64 `PIXEL`s of a `RENDER`. -/

/-- The owner reads back from a `PIXEL` response the entry that went into it (R95, R194). -/
theorem entryOfResponse_pixelData (lit : Bool) (a : PhysAddr) : entryOfResponse ⟨.ok, 0, pixelData lit a⟩ = (a, lit) := by
  obtain ⟨x, y⟩ := a
  simp only [entryOfResponse, Prod.mk.injEq, PhysAddr.mk.injEq]
  refine ⟨⟨BitVec.eq_of_getLsbD_eq fun i hi => ?_, BitVec.eq_of_getLsbD_eq fun i hi => ?_⟩, (pixelData_fields ..).1⟩
  · simp [pixelData_getLsbD, hi, show 8 + i < 16 by omega]
  · simp [pixelData_getLsbD, hi, show i < 8 by omega]

theorem effect_pixel_cell (c : Config) (s : State) (cell : Cell) :
    Effect c s (.pixel cell.1.val cell.2.val) (respondOk 0 (pixelData (on s.fb cell) (physical c cell)) s) :=
  .pixel (cellOfOperands_inside cell.1.isLt cell.2.isLt)

/-- `PIXEL`s of any cells, in any order, are all `ok`, keep the block and answer the render of these cells. -/
theorem runOk_render (c : Config) (order : List Cell) {s : State} (hf : s.fault = false) :
    ∃ t rs, runOk c (Pseudo.expand (.render order)) s = some (t, rs) ∧ SameBlock s t ∧
      rs.map entryOfResponse = render c order s.fb := by
  induction order generalizing s with
  | nil => exact ⟨s, [], rfl, rfl, rfl⟩
  | cons cell order ih =>
    have he := effect_pixel_cell c s cell
    obtain ⟨t, rs, hrun, hsame, hentries⟩ := ih (s := respondOk 0 _ s) hf
    refine ⟨t, _, runOk_cons_of_effect hf he rfl rfl hrun, hsame, ?_⟩
    rw [List.map_cons, entryOfResponse_pixelData, hentries]
    rfl

/-! The push. -/

/-- What is listed at an address decides the search there, in whatever order and however often it is listed. -/
theorem lookup_eq_of_mem_iff {α β : Type} [DecidableEq α] {l : List (α × β)} {a : α} {o : Option β}
    (h : ∀ b, (a, b) ∈ l ↔ o = some b) : l.lookup a = o := by
  cases hl : l.lookup a with
  | none =>
    refine (Option.eq_none_iff_forall_ne_some.mpr fun b hb => ?_).symm
    simpa using List.lookup_eq_none_iff.mp hl (a, b) ((h b).mpr hb)
  | some b =>
    obtain ⟨_, _, rfl, -⟩ := List.lookup_eq_some_iff.mp hl
    exact ((h b).mp (by simp)).symm

/-- `commit/flush` shows the pushed entries and nothing the controller held before (R207). -/
theorem shown_push (entries : List (PhysAddr × Bool)) (k : Controller) :
    ((pushOps entries).foldl Controller.apply k).shown = some entries.reverse := by
  simp [pushOps, Controller.apply, foldl_setOne_written]

/-- After the push of a render every wired cell shows its LED and every other cell is off (R196). -/
theorem cellLit_render {c : Config} (hc : c.admissible = true) {order : List Cell} (horder : renderOrderWf order = true)
    (S : DisplayState) (a : PhysAddr) : cellLit (render c order S).reverse a = (led c S a).getD false := by
  have hmem : ∀ lit, (a, lit) ∈ (render c order S).reverse ↔ led c S a = some lit :=
    fun _ => List.mem_reverse.trans (mem_render_iff hc horder)
  rw [cellLit, lookup_eq_of_mem_iff hmem]

/-- A tick of the owner whose commands are all `ok` goes through, and pushes the entries of its `PIXEL` responses (R205). -/
theorem ownerTick_of_runOk {c : Config} {choice : OwnerChoice} {b : Board} {s : State} {tick : Response}
    {pixels : List Response} (horder : renderOrderWf choice.order = true)
    (hrun : runOk c (tickCommands choice.order) b.block = some (s, tick :: pixels)) :
    ∃ done, ownerTick c choice b =
      some (⟨s, (pushOps (pixels.map entryOfResponse)).foldl Controller.apply b.controller⟩, done) := by
  simp [ownerTick, horder, hrun]

end Sys2Proof.Machine
end

section
/-! PROOFS. The statements about the display pixel mux. -/

namespace Sys2Proof.Proofs

open Sys2Proof.Machine

/-- Settles O15: the order is a permutation of the 64 cells, so by `mem_grid_iff` every cell has its bit and no other. -/
theorem gridIsTheBitOfEveryCell : Obligations.GridIsTheBitOfEveryCell := fun _ _ horder =>
  ⟨(List.length_map _).trans ((renderOrderWf_perm horder).length_eq.trans allCells_length), fun _ _ _ => mem_grid_iff horder⟩

/-- Settles O47, by `runOk_render`: the run of the `PIXEL`s, one cell after the other. -/
theorem renderCommandsAnswerTheRender : Obligations.RenderCommandsAnswerTheRender :=
  fun order _ _ hf => runOk_render Config.thisHardware order hf

/-- Settles O48: a push shows what it was given; the owner's tick is `TICK`, then a `RENDER` of the state that `TICK` left. -/
theorem pushedPictureIsTheFramebuffer : Obligations.PushedPictureIsTheFramebuffer := by
  refine ⟨fun order S k a horder => ⟨_, shown_push _ k, cellLit_render thisHardware_admissible horder S a⟩,
    fun choice b horder hf hmode => ?_⟩
  obtain ⟨e, hentry⟩ := currentEntry_of_modeInv hmode
  have htick : Effect Config.thisHardware b.block .tick _ := .tick hentry
  obtain ⟨u, rs, hrender, hsame, hentries⟩ :=
    runOk_render Config.thisHardware choice.order (s := respondOk 0 _ (b.block.advance e)) hf
  obtain ⟨done, howner⟩ := ownerTick_of_runOk horder (runOk_cons_of_effect hf htick rfl rfl hrender)
  rw [hentries] at howner
  exact ⟨_, _, done, _, exec_of_effect hf htick, howner, hsame, shown_push _ _,
    cellLit_render thisHardware_admissible horder _⟩

end Sys2Proof.Proofs
end

section
/-! SUPPORT. The authoring path's conversion pair: what a numeral's bits and a string's characters are (R210, R211). -/

namespace Sys2Proof.Machine

theorem isBinaryDigit_iff {ch : Char} : isBinaryDigit ch = true ↔ ch = '0' ∨ ch = '1' := by
  simp [isBinaryDigit]

/-- The next digit is the least significant bit of the longer numeral (R210). -/
theorem binaryNumeral_concat (s : List Char) (d : Char) :
    binaryNumeral (s ++ [d]) = Nat.bit (d == '1') (binaryNumeral s) := by
  rw [binaryNumeral, List.foldl_append, ← binaryNumeral, List.foldl_cons, List.foldl_nil]
  cases d == '1' <;> rfl

/-- The digits are read most significant first: bit `i` of the numeral is the digit with `i` digits after it (R210). -/
theorem testBit_binaryNumeral (s : List Char) (i : Nat) :
    (binaryNumeral s).testBit i = (s.reverse[i]? == some '1') := by
  induction s using List.reverseRecOn generalizing i with
  | nil => simp [binaryNumeral]
  | append_singleton s d ih =>
    rw [binaryNumeral_concat, List.reverse_concat]
    cases i with
    | zero => rw [Nat.testBit_bit_zero, List.getElem?_cons_zero, Option.some_beq_some]
    | succ i => rw [Nat.testBit_bit_succ, List.getElem?_cons_succ, ih]

@[simp] theorem u64ToBinaryString_length (V : BitVec 64) : (u64ToBinaryString V).length = 64 := by
  simp [u64ToBinaryString]

theorem u64ToBinaryString_digits (V : BitVec 64) : ∀ ch ∈ u64ToBinaryString V, ch = '0' ∨ ch = '1' := by
  intro ch hch
  obtain ⟨j, -, rfl⟩ := List.mem_map.mp hch
  cases V.getLsbD (63 - j) <;> simp

/-- Bit `i` stands `i` characters before the last one (R211). -/
theorem u64ToBinaryString_reverse_getElem? (V : BitVec 64) {i : Nat} (hi : i < 64) :
    (u64ToBinaryString V).reverse[i]? = some (if V.getLsbD i then '1' else '0') := by
  have hidx : 63 - (63 - i) = i := by omega
  simp [u64ToBinaryString, hi, hidx]

/-- A string of 64 binary digits loses no character and is short enough (R210). -/
theorem binaryStringToU64_of_digits {s : List Char} (hlen : s.length = 64) (hdig : ∀ ch ∈ s, ch = '0' ∨ ch = '1') :
    binaryStringToU64 s = some (BitVec.ofNat 64 (binaryNumeral s)) := by
  have hfilter : s.filter isBinaryDigit = s :=
    List.filter_eq_self.mpr fun ch hch => isBinaryDigit_iff.mpr (hdig ch hch)
  simp [binaryStringToU64, hfilter, hlen]

/-- A value is the numeral of its string (R212). -/
theorem ofNat_binaryNumeral_u64ToBinaryString (V : BitVec 64) :
    BitVec.ofNat 64 (binaryNumeral (u64ToBinaryString V)) = V := by
  refine BitVec.eq_of_getLsbD_eq fun i hi => ?_
  rw [BitVec.getLsbD_ofNat, testBit_binaryNumeral, u64ToBinaryString_reverse_getElem? V hi]
  cases V.getLsbD i <;> simp [hi]

/-- A string of 64 binary digits is the string of its numeral (R212). -/
theorem u64ToBinaryString_ofNat_binaryNumeral {s : List Char} (hlen : s.length = 64)
    (hdig : ∀ ch ∈ s, ch = '0' ∨ ch = '1') : u64ToBinaryString (BitVec.ofNat 64 (binaryNumeral s)) = s := by
  refine List.reverse_injective (List.ext_getElem (by simp [hlen]) fun i hi hi' => Option.some_injective _ ?_)
  have hi64 : i < 64 := by simpa using hi
  rw [← List.getElem?_eq_getElem hi, u64ToBinaryString_reverse_getElem? _ hi64, BitVec.getLsbD_ofNat,
    testBit_binaryNumeral, List.getElem?_eq_getElem hi']
  obtain h | h := hdig _ (List.mem_reverse.mp (List.getElem_mem hi')) <;> simp [h, hi64]

end Sys2Proof.Machine
end

section
/-! PROOFS. The statement about the authoring path. -/

namespace Sys2Proof.Proofs

open Sys2Proof.Machine

/-- Settles O49: a string the pair gives back is a `u64ToBinaryString`, and of 64 digits nothing is dropped. -/
theorem binaryStringRoundTrip : Obligations.BinaryStringRoundTrip := by
  refine ⟨fun V => ⟨u64ToBinaryString_length V, ?_⟩, fun s => ⟨fun h => ?_, fun ⟨hlen, hdig⟩ => ?_⟩⟩
  · rw [binaryStringToU64_of_digits (u64ToBinaryString_length V) (u64ToBinaryString_digits V),
      ofNat_binaryNumeral_u64ToBinaryString]
  · obtain ⟨V, -, rfl⟩ := Option.map_eq_some_iff.mp h
    exact ⟨u64ToBinaryString_length V, u64ToBinaryString_digits V⟩
  · rw [binaryStringToU64_of_digits hlen hdig, Option.map_some, u64ToBinaryString_ofNat_binaryNumeral hlen hdig]

end Sys2Proof.Proofs
end

section
/-! SUPPORT. Which checks of a legal command raise a fault (R222, R230). -/

namespace Sys2Proof.Machine

/-- A check that answers a fault applies, and its status is that of a fault. -/
theorem Status.of_ite_outcomeClass_fault {p : Prop} [Decidable p] {st : Status}
    (h : (if p then st else .ok).outcomeClass = .fault) : p ∧ st.outcomeClass = .fault := by
  split at h
  · next hp => exact ⟨hp, h⟩
  · cases h

/-- Of the checks of a legal command only the coordinate check is a fault; the others reject. -/
theorem coordinate_out_of_range_of_checkStatus_fault {c : Config} {s : State} {i : Instr}
    (h : (checkStatus c s i).outcomeClass = .fault) :
    ∃ row k : Nat, (i = .map row k ∨ i = .pixel row k) ∧ (7 < row ∨ 7 < k) := by
  cases i with
  | map row k => exact ⟨row, k, .inl rfl, (Status.of_ite_outcomeClass_fault h).1⟩
  | pixel row k => exact ⟨row, k, .inr rfl, (Status.of_ite_outcomeClass_fault h).1⟩
  | commit | stgcol | stgfrm | stgchar => cases (Status.of_ite_outcomeClass_fault h).2
  | _ => cases h

end Sys2Proof.Machine
end

section
/-! PROOFS. The statements about faults, rejects and the halted state. -/

namespace Sys2Proof.Proofs

open Sys2Proof.Machine

/-- Settles O23: the effect of the two faulting lookups; and a command that halts the block answers the status of a fault, which
among the checks only the coordinate check gives. -/
theorem coordinateOutOfRangeFaults : Obligations.CoordinateOutOfRangeFaults := by
  refine ⟨fun row k s hf hout => ⟨exec_of_effect hf (.mapFault hout), exec_of_effect hf (.pixelFault hout)⟩,
    fun i s s' hf hexec hhalt => ?_⟩
  obtain ⟨hf', -⟩ | ⟨-, he⟩ := exec_next hexec
  · rw [hf] at hf'
    cases hf'
  · obtain ⟨r, hr, hstatus⟩ := he.status
    obtain ⟨cause, rfl⟩ := he.ending.halts hf hhalt
    cases hr
    have hclass := (congrArg Status.outcomeClass hstatus).symm.trans cause.status_outcomeClass
    exact coordinate_out_of_range_of_checkStatus_fault hclass

/-- Settles O51: a halted block serves a word, whatever it decodes to, by ignoring it. -/
theorem haltedBlockIgnoresEveryCommand : Obligations.HaltedBlockIgnoresEveryCommand := by
  intro s w rest hf hi
  rw [step_eq_stepIn, stepIn, serveNext_input hi, serveInput_word]
  exact serveWord_halted hf

/-- Settles O52, by what is next on the port: without `rst` the block is idle or, by O51, ignores the command. -/
theorem onlyResetLeavesTheHaltedState : Obligations.OnlyResetLeavesTheHaltedState := by
  intro s s' hf hs
  obtain ⟨hidle, hnone⟩ := noCommandNothingHappens s
  match hi : s.inputs with
  | [] =>
    rw [hidle hi] at hs
    cases hs
    exact .inr ⟨hf, rfl⟩
  | ⟨true, cw⟩ :: rest =>
    rw [step, serveNext_input hi, serveInput_reset] at hs
    cases hs
    exact .inl ⟨_, rest, rfl, rfl, rfl⟩
  | ⟨false, none⟩ :: rest =>
    rw [hnone rest hi] at hs
    cases hs
    exact .inr ⟨hf, rfl⟩
  | ⟨false, some w⟩ :: rest =>
    rw [haltedBlockIgnoresEveryCommand s w rest hf hi] at hs
    cases hs
    exact .inr ⟨hf, rfl⟩

/-- Settles O54: a halted block ignores the word; a running one ends it in one of the three ways of `Ending`. -/
theorem failingCommandsHaveNoPartialEffect : Obligations.FailingCommandsHaveNoPartialEffect := by
  intro s s' w r hs hr
  rw [step_presentWord] at hs
  obtain hf | hf := Bool.eq_false_or_eq_true s.fault
  · rw [serveWord_halted hf] at hs
    cases hs
    cases hr
    exact ⟨fun _ => rfl, nofun, fun _ => ⟨rfl, rfl⟩⟩
  · cases serveWord_ending hf hs with
    | ok cnt data t _ _ =>
      cases hr
      exact ⟨nofun, nofun, absurd rfl⟩
    | reject st hst =>
      cases hr
      have hclass : (Response.bare st).status.outcomeClass = .reject := hst
      exact ⟨fun _ => rfl, by simp [hclass], fun _ => ⟨rfl, rfl⟩⟩
    | fault cause =>
      cases hr
      have hclass : (Response.bare cause.status).status.outcomeClass = .fault := cause.status_outcomeClass
      exact ⟨by simp [hclass], fun _ => rfl, fun _ => ⟨rfl, rfl⟩⟩

/-- Settles O38: the effect of `COMMIT` where the staging buffer is empty. -/
theorem commitOfAnEmptyBufferIsRejected : Obligations.CommitOfAnEmptyBufferIsRejected :=
  fun tag _ hf h0 => exec_of_effect hf (.commitEmpty tag h0)

end Sys2Proof.Proofs
end

section
/-! PROOFS. The statement about the reset input. -/

namespace Sys2Proof.Proofs

open Sys2Proof.Machine

/-- Settles O2: the input on the port is served before any look at the state, and serving `rst` is `applyReset`, which keeps of the
old state only the inputs still to come. -/
theorem resetInputRestoresTheResetState : Obligations.ResetInputRestoresTheResetState := by
  intro s cw rest hi
  calc step s
      = serveInput Config.thisHardware exec ⟨true, cw⟩ { s with inputs := rest } := serveNext_input hi
    _ = .next (applyReset Config.thisHardware { s with inputs := rest }) := serveInput_reset
    _ = .next { State.reset with inputs := rest } := rfl

end Sys2Proof.Proofs
end
